-- ==== Sys2Proof/Word.lean ====
section
/-! DEFINITION. The word types of the Frame Codec: octets and sequence numbers (R51, R5). -/

namespace Sys2Proof

/-- An octet, the unit of every space of the block (R51). -/
abbrev Octet := BitVec 8

/-- A sequence number, `SEQ_BITS` = 15 bits, 0..32767 (R5, R79). -/
abbrev SeqNum := BitVec 15

end Sys2Proof
end

