-- ==== Sys2Proof/Config.lean ====
section
/-! DEFINITION. The constants R5 to R7 fix, and the free values of the outputs the spec leaves unspecified (U6, U7). The block
has no run-time configuration (R8). -/

namespace Sys2Proof

/-- `START`, the start octet of every APDU (R5). -/
def Config.start : Octet := 0x68#8

/-- `HDR_LEN`, octets of the start/length header (R5). -/
def Config.hdrLen : Nat := 2

/-- `MAX_LEN`, the largest legal value of the length octet (R5). -/
def Config.maxLen : Nat := 253

/-- `CTRL_LEN`, control octets of every APDU (R6; UNVERIFIED layout, log entry 11). -/
def Config.ctrlLen : Nat := 4

/-- `MIN_LEN`, the smallest legal value of the length octet (R6; UNVERIFIED layout, log entry 11). -/
def Config.minLen : Nat := 4

/-- `MAX_ASDU`, the largest ASDU of an I-frame (R7). -/
def Config.maxAsdu : Nat := 249

/-- `RXB_SIZE`, cells of the receive buffer (R7). -/
def Config.rxbSize : Nat := 253

/-- `TXB_SIZE`, cells of the transmit buffer (R7). -/
def Config.txbSize : Nat := 255

/-- `frm_kind` while no frame is held: unspecified (R36, U6), a free value per reading (log entry 6). -/
opaque Config.freeKind : Nat → BitVec 2

/-- `frm_ufunc` while no frame is held: unspecified (R36, U6), a free value per reading (log entry 6). -/
opaque Config.freeUfunc : Nat → BitVec 3

/-- `frm_ns` while no frame is held: unspecified (R36, U6), a free value per reading (log entry 6). -/
opaque Config.freeNs : Nat → SeqNum

/-- `frm_nr` while no frame is held: unspecified (R36, U6), a free value per reading (log entry 6). -/
opaque Config.freeNr : Nat → SeqNum

/-- `frm_asdu_len` while no frame is held: unspecified (R36, U6), a free value per reading (log entry 6). -/
opaque Config.freeAsduLen : Nat → BitVec 8

/-- `frm_asdu_data` while no frame is held or past the ASDU's end: unspecified (R36, U6, U7), a free value per reading
(log entry 6). -/
opaque Config.freeAsduData : Nat → Octet

/-- `tx_data` where its cell was never written: unspecified (R42, U5), a free value per reading (log entry 7). -/
opaque Config.freeTxData : Nat → Octet

end Sys2Proof
end

