-- ==== Sys2Proof/Syntax.lean ====
section
/-! DEFINITION. The eight frame kinds, one constructor per row of spec/opcode_table.json (R2, R83, 00_scope.md §5.4). -/

namespace Sys2Proof

/-- A frame value (00_scope.md §5.4, R92). -/
inductive Instr where
  /-- `I(ns, nr, asdu)`, the Numbered data frame (R75). -/
  | i (ns nr : SeqNum) (asdu : List Octet)
  /-- `S(nr)`, the Acknowledge frame (R77). -/
  | s (nr : SeqNum)
  /-- `U(STARTDT_ACT)` (R82). -/
  | startdtAct
  /-- `U(STARTDT_CON)` (R82). -/
  | startdtCon
  /-- `U(STOPDT_ACT)` (R82). -/
  | stopdtAct
  /-- `U(STOPDT_CON)` (R82). -/
  | stopdtCon
  /-- `U(TESTFR_ACT)` (R82). -/
  | testfrAct
  /-- `U(TESTFR_CON)` (R82). -/
  | testfrCon
deriving DecidableEq, Repr

/-- The ASDU a frame carries: that of an I-frame, none otherwise (R76, R84). -/
def Instr.asdu : Instr → List Octet
  | .i _ _ asdu => asdu
  | .s _ => []
  | .startdtAct => []
  | .startdtCon => []
  | .stopdtAct => []
  | .stopdtCon => []
  | .testfrAct => []
  | .testfrCon => []

end Sys2Proof
end

