-- ==== Sys2Proof/WellFormed.lean ====
section
/-! DEFINITION. Which frame values exist: an ASDU has at most `MAX_ASDU` octets (00_scope.md §5.4, R7). Sequence numbers are
15 bits wide by their type. -/

namespace Sys2Proof

/-- A frame value of the spec: `len(asdu)` in 0..249 (00_scope.md §5.4). -/
def Instr.wf (f : Instr) : Bool :=
  decide (f.asdu.length ≤ Config.maxAsdu)

end Sys2Proof
end

