-- ==== Sys2Proof/Decode.lean ====
section
/-! DEFINITION. The decoder's pure part (`classify`, R105; a whole APDU, R70, R88), the opcode map (R83), and the encoder
(R134 to R141, R144). Bit positions rest on general knowledge of the standard: UNVERIFIED, log entry 11. -/

namespace Sys2Proof

/-! ## Errors by name -/

/-- The error codes of R160. -/
inductive ErrCode where
  /-- No error since reset (code 0). -/
  | none
  /-- The octet at a frame boundary is not 0x68 (code 1, R161). -/
  | invalidStartByte
  /-- The length octet is above 253; on transmit an ASDU above 249 octets (code 2, R162). -/
  | frameTooLarge
  /-- The length octet is below 4 (code 3, R163). -/
  | frameTooShort
  /-- The control word is no legal pattern; on transmit a kind or function that names no frame (code 4, R164). -/
  | invalidControlField
  /-- A legal S or U control word in a frame with `L` > 4 (code 5, R165). -/
  | unexpectedPayload
deriving DecidableEq, Repr

/-- What `classify` answers (R105): `Ok f` or `Err(e, info)`. -/
inductive Classified where
  | ok (f : Instr)
  | err (e : ErrCode) (info : Octet)
deriving DecidableEq, Repr

/-! ## Fields -/

/-- The 15-bit number in two consecutive control octets: `{ hi[7:0], lo[7:1] }` (R56, R80). -/
def seqOf (lo hi : Octet) : SeqNum :=
  hi ++ lo.extractLsb' 1 7

/-- The first of a number's two octets: its seven low bits in bits 7..1, bit 0 clear (R81). -/
def seqLo (n : SeqNum) : Octet :=
  n.extractLsb' 0 7 ++ 0#1

/-- The second of a number's two octets: its eight high bits (R81). -/
def seqHi (n : SeqNum) : Octet :=
  n.extractLsb' 7 8

/-- The control word `CW` = `{CF4, CF3, CF2, CF1}` (R73). -/
def controlWord (cf1 cf2 cf3 cf4 : Octet) : BitVec 32 :=
  cf4 ++ cf3 ++ cf2 ++ cf1

/-! ## Classification (R105) -/

/-- The U function whose fixed pattern is `cf1` (R82). -/
def uFrameOf (cf1 : Octet) : Option Instr :=
  if cf1 = 0x07#8 then some .startdtAct
  else if cf1 = 0x0B#8 then some .startdtCon
  else if cf1 = 0x13#8 then some .stopdtAct
  else if cf1 = 0x23#8 then some .stopdtCon
  else if cf1 = 0x43#8 then some .testfrAct
  else if cf1 = 0x83#8 then some .testfrCon
  else none

/-- The I-format branch of R105 (R110). -/
def classifyI (cf1 cf2 cf3 cf4 : Octet) (asdu : List Octet) : Classified :=
  if cf3.getLsbD 0 then .err .invalidControlField cf1
  else .ok (.i (seqOf cf1 cf2) (seqOf cf3 cf4) asdu)

/-- The S-format branch of R105 (R111). -/
def classifyS (cf1 cf2 cf3 cf4 : Octet) (asdu : List Octet) : Classified :=
  if cf1 ≠ 0x01#8 ∨ cf2 ≠ 0x00#8 ∨ cf3.getLsbD 0 = true then .err .invalidControlField cf1
  else if asdu ≠ [] then .err .unexpectedPayload (BitVec.ofNat 8 (Config.ctrlLen + asdu.length))
  else .ok (.s (seqOf cf3 cf4))

/-- The U-format branch of R105 (R112 to R117). -/
def classifyU (cf1 cf2 cf3 cf4 : Octet) (asdu : List Octet) : Classified :=
  if cf2 ≠ 0x00#8 ∨ cf3 ≠ 0x00#8 ∨ cf4 ≠ 0x00#8 then .err .invalidControlField cf1
  else
    match uFrameOf cf1 with
    | none => .err .invalidControlField cf1
    | some f =>
      if asdu ≠ [] then .err .unexpectedPayload (BitVec.ofNat 8 (Config.ctrlLen + asdu.length))
      else .ok f

/-- `classify` on the four control octets and what follows them (R105): the format is told by the low bits of `CF1` (R74). -/
def classify (cf1 cf2 cf3 cf4 : Octet) (asdu : List Octet) : Classified :=
  if cf1.getLsbD 0 = false then classifyI cf1 cf2 cf3 cf4 asdu
  else if cf1.getLsbD 1 = false then classifyS cf1 cf2 cf3 cf4 asdu
  else classifyU cf1 cf2 cf3 cf4 asdu

/-- `classify` on a body of `L` octets, 4 ≤ `L` ≤ 253, the domain R105 gives it; `none` outside that domain. -/
def decodeBody (body : List Octet) : Option Classified :=
  match body with
  | cf1 :: cf2 :: cf3 :: cf4 :: asdu =>
    if asdu.length ≤ Config.maxAsdu then some (classify cf1 cf2 cf3 cf4 asdu) else none
  | _ => none

/-! ## A whole APDU -/

/-- What an octet string begins with (R86): not yet a whole APDU, a frame and the octets after it, or an error. -/
inductive Decoded where
  | needMore
  | frame (f : Instr) (rest : List Octet)
  | error (e : ErrCode) (info : Octet)
deriving DecidableEq, Repr

/-- The body of an APDU whose length octet is `l`, out of the octets after the header: the next `l` octets, judged when all
have come (R88, R104). -/
def decodeAfterHeader (l : Octet) (rest : List Octet) : Decoded :=
  if rest.length < l.toNat then .needMore
  else
    match decodeBody (rest.take l.toNat) with
    | none => .needMore
    | some (.ok f) => .frame f (rest.drop l.toNat)
    | some (.err e info) => .error e info

/-- The checks of the length octet `l`, then the body (R102). -/
def decodeLength (l : Octet) (rest : List Octet) : Decoded :=
  if Config.maxLen < l.toNat then .error .frameTooLarge l
  else if l.toNat < Config.minLen then .error .frameTooShort l
  else decodeAfterHeader l rest

/-- What the decoder, at a frame boundary, makes of an octet string (R70, R86, R101 to R105). -/
def decodeApdu : List Octet → Decoded
  | [] => .needMore
  | b :: rest =>
    if b ≠ Config.start then .error .invalidStartByte b
    else
      match rest with
      | [] => .needMore
      | l :: rest' => decodeLength l rest'

/-! ## The opcode table's words -/

/-- The body octets of an instruction of `nbits` bits numbered as the opcode table numbers them: `CF1` is bits 7..0 (R73);
octets past `nbits` are zero, and an APDU has at least the four control octets (R6). -/
def tableOctets (nbits w : Nat) : List Octet :=
  (List.range (max Config.ctrlLen ((nbits + 7) / 8))).map fun k => BitVec.ofNat 8 ((w % 2 ^ nbits) >>> (8 * k))

/-- The frame the decoder reads from the control word `w` of the opcode table. -/
def decodeTableWord (nbits w : Nat) : Option Instr :=
  match decodeBody (tableOctets nbits w) with
  | some (.ok f) => some f
  | some (.err _ _) => none
  | none => none

/-- A row of the opcode map (R83): a control word matches when `CW & mask` = `pat`. -/
structure OpcodeRow where
  mnemonic : String
  mask : BitVec 32
  pat : BitVec 32
deriving DecidableEq, Repr

/-- The opcode map of R83 and spec/opcode_table.json. -/
def opcodeTable : List OpcodeRow :=
  [ { mnemonic := "I", mask := 0x00010001#32, pat := 0x00000000#32 },
    { mnemonic := "S", mask := 0x0001FFFF#32, pat := 0x00000001#32 },
    { mnemonic := "STARTDT_ACT", mask := 0xFFFFFFFF#32, pat := 0x00000007#32 },
    { mnemonic := "STARTDT_CON", mask := 0xFFFFFFFF#32, pat := 0x0000000B#32 },
    { mnemonic := "STOPDT_ACT", mask := 0xFFFFFFFF#32, pat := 0x00000013#32 },
    { mnemonic := "STOPDT_CON", mask := 0xFFFFFFFF#32, pat := 0x00000023#32 },
    { mnemonic := "TESTFR_ACT", mask := 0xFFFFFFFF#32, pat := 0x00000043#32 },
    { mnemonic := "TESTFR_CON", mask := 0xFFFFFFFF#32, pat := 0x00000083#32 } ]

/-- Whether a control word matches a row (R83). -/
def OpcodeRow.matchesWord (r : OpcodeRow) (cw : BitVec 32) : Bool :=
  decide (cw &&& r.mask = r.pat)

/-- The mnemonic of a frame, spelled as the opcode table spells it (R92). -/
def Instr.mnemonic : Instr → String
  | .i _ _ _ => "I"
  | .s _ => "S"
  | .startdtAct => "STARTDT_ACT"
  | .startdtCon => "STARTDT_CON"
  | .stopdtAct => "STOPDT_ACT"
  | .stopdtCon => "STOPDT_CON"
  | .testfrAct => "TESTFR_ACT"
  | .testfrCon => "TESTFR_CON"

/-! ## The encoder (R134 to R141) -/

/-- The octets of a U-frame after the header: its pattern and three zero octets (R82). -/
def uBody (pattern : Octet) : List Octet :=
  [pattern, 0x00#8, 0x00#8, 0x00#8]

/-- The octets of a frame after the header, `CF1..CF4` and the ASDU (R81). -/
def encodeBody : Instr → List Octet
  | .i ns nr asdu => seqLo ns :: seqHi ns :: seqLo nr :: seqHi nr :: asdu
  | .s nr => [0x01#8, 0x00#8, seqLo nr, seqHi nr]
  | .startdtAct => uBody 0x07#8
  | .startdtCon => uBody 0x0B#8
  | .stopdtAct => uBody 0x13#8
  | .stopdtCon => uBody 0x23#8
  | .testfrAct => uBody 0x43#8
  | .testfrCon => uBody 0x83#8

/-- `encode(f)`: the start octet, the count of the octets after it, and those octets (R142, R144). -/
def encode (f : Instr) : List Octet :=
  Config.start :: BitVec.ofNat 8 (encodeBody f).length :: encodeBody f

end Sys2Proof
end

