-- ==== Sys2Proof/Machine/State.lean ====
section
/-! DEFINITION. The state of the Frame Codec (R10, R20 to R34), the streams it stands between (R50), what the environment
offers it (R9), the reasons a step can stop, and the state after reset (R42). -/

namespace Sys2Proof.Machine

/-! ## Values of the state's fields -/

/-- The decoder's states (R21); codes 5 to 7 of the 3-bit register are never produced. -/
inductive RxState where
  /-- At a frame boundary; the next octet must be the start octet. -/
  | start
  /-- Start octet seen; the next octet is the length octet. -/
  | len
  /-- Length octet seen; collecting the body. -/
  | body
  /-- A complete, valid frame is held until `FrameTake`. -/
  | hold
  /-- An error was detected; sticky until `Reset`. -/
  | err
deriving DecidableEq, Repr

/-- The encoder's states (R29); code 3 of the 2-bit register is never produced. -/
inductive TxState where
  /-- No frame in progress. -/
  | idle
  /-- An encoded APDU is being put on the stream. -/
  | send
  /-- An ill-formed descriptor was presented; sticky until `Reset`. -/
  | err
deriving DecidableEq, Repr

/-- The two agents that execute steps (R9). -/
inductive Agent where
  | rx
  | tx
deriving DecidableEq, Repr

/-- The five events (00_scope.md §5.3). The octet of `RxByte(b)` is the head of the inbound stream, the descriptor of
`TxFrame(d)` the head of the waiting descriptors. -/
inductive EventKind where
  | reset
  | rxByte
  | frameTake
  | txFrame
  | txByte
deriving DecidableEq, Repr

/-- What the decoder puts out (R100), and the frame value `FrameTake` returns (R107). -/
inductive RxOutput where
  /-- `Frame(f)`: a frame became available (R104). -/
  | frame (f : Instr)
  /-- `Error(e, info)`: an error was entered (R166). -/
  | error (e : ErrCode) (info : Octet)
  /-- The frame value `FrameTake` returned (R107). -/
  | taken (f : Instr)
deriving DecidableEq, Repr

/-- A port-level frame descriptor (R40, R145). `asdu` is what the ASDU port answers at each of its 256 indices
(log entry 12). -/
structure Descriptor where
  kind : BitVec 2
  ufunc : BitVec 3
  ns : SeqNum
  nr : SeqNum
  asduLen : BitVec 8
  asdu : Vector Octet 256
deriving DecidableEq, Repr

/-- A buffer: its written cells as (index, octet) pairs, indices strictly rising. A cell that is not listed was never
written and cannot be read (R42: unspecified, not cleared; log entry 3). -/
abbrev Memory := List Host.Cell

/-! ## The state -/

/-- The block's registers and buffers (R10), the two streams (R50), and the environment's offers (log entry 1). -/
structure State where
  /-- `rx_state` (R21). -/
  rxState : RxState
  /-- `rx_len` (R23). -/
  rxLen : BitVec 8
  /-- `rx_cnt` (R24). -/
  rxCnt : BitVec 8
  /-- `rx_buf`, cells 0..252 (R25, R52). -/
  rxBuf : Memory
  /-- `rx_err` (R26). -/
  rxErr : ErrCode
  /-- `rx_err_info` (R27). -/
  rxErrInfo : Octet
  /-- `tx_state` (R29). -/
  txState : TxState
  /-- `tx_len` (R30). -/
  txLen : BitVec 8
  /-- `tx_idx` (R31). -/
  txIdx : BitVec 8
  /-- `tx_buf`, cells 0..254 (R32, R53). -/
  txBuf : Memory
  /-- `tx_err` (R33). -/
  txErr : ErrCode
  /-- The inbound stream: octets offered and not yet consumed, first octet first (R50, R55). -/
  inbound : List Octet
  /-- The outbound stream: octets emitted so far, first octet first (R50, R60). -/
  outbound : List Octet
  /-- The decoder's outputs so far, oldest first (R100; log entry 9). -/
  rxOut : List RxOutput
  /-- Descriptors waiting at the transmit port, first offered first (R40, R196). -/
  descriptors : List Descriptor
  /-- The events the environment tries next, in order (R9, R12; log entry 1). -/
  schedule : List EventKind
  /-- Whether a `Reset` has occurred since power-up (R193, U8; log entry 5). -/
  resetDone : Bool
deriving DecidableEq, Repr

/-! ## Reasons to stop -/

/-- States or requests no rule of the spec gives a step; none arises in a run from reset. -/
inductive Fault where
  /-- Raised by a frame's meaning (`exec`) where the event at hand does not present a complete frame: `step` never asks for it
  there. Safe: the model stops. -/
  | frameNotPresented
  /-- Raised by `RxByte` in `RX_BODY` when `rx_cnt` has reached `rx_len`, which R28(b) excludes. Safe: the model stops. -/
  | rxCountPastLength
  /-- Raised by `RxByte` when a needed cell of `rx_buf` does not exist or was never written, which R25 excludes. Safe: the
  model stops. -/
  | rxCellMissing
  /-- Raised by `RxByte` at the last octet of a body of fewer than four octets, which R28(b) excludes. Safe: the model
  stops. -/
  | rxBodyTooShort
  /-- Raised by `FrameTake` when the held octets are no frame, which R28(c) excludes. Safe: the model stops. -/
  | heldFrameInvalid
  /-- Raised by `TxByte` when the cell to emit does not exist or was never written, which R32 and R34(b) exclude. Safe: the
  model stops. -/
  | txCellMissing
deriving DecidableEq, Repr

/-- Requests the spec gives no meaning. -/
inductive Refusal where
  /-- Raised by `exec` for an instruction without a meaning; no arm raises it. Safe: the model stops. -/
  | notModelled (mnemonic : String)
  /-- Raised by `step` for any event but `Reset` before the first `Reset`: the state is unspecified and no rule applies (R193,
  U8). Safe: the model stops. -/
  | beforeReset
deriving DecidableEq, Repr

/-! ## Reset -/

/-- The machine right after reset (R42). The buffers list no cell (log entry 3); the environment has offered nothing
(log entry 1). -/
def State.reset : State where
  rxState := .start
  rxLen := 0#8
  rxCnt := 0#8
  rxBuf := []
  rxErr := .none
  rxErrInfo := 0#8
  txState := .idle
  txLen := 0#8
  txIdx := 0#8
  txBuf := []
  txErr := .none
  inbound := []
  outbound := []
  rxOut := []
  descriptors := []
  schedule := []
  resetDone := true

end Sys2Proof.Machine
end

