-- ==== Sys2Proof/Machine/Ops.lean ====
section
/-! DEFINITION. The named operations over the buffers and registers: cell access (R50, R58), error entry on both sides (R166,
R167) and `Reset` beside it, the only way out of an error (R169, R190), and the register updates the step rules are made of. -/

namespace Sys2Proof.Machine

/-! ## Buffers -/

/-- The octet in cell `a`; none where nothing was written (log entry 3). -/
def Memory.read : Memory → Nat → Option Octet
  | [], _ => none
  | (k, v) :: m, a => if k = a then some v else Memory.read m a

/-- Cell `a` set to `b`, keeping indices strictly rising. -/
def Memory.write : Memory → Nat → Octet → Memory
  | [], a, b => [(a, b)]
  | (k, v) :: m, a, b =>
    if a < k then (a, b) :: (k, v) :: m
    else if k = a then (a, b) :: m
    else (k, v) :: Memory.write m a b

/-- The octets of `bs` written to consecutive cells from `a`. -/
def Memory.writeAll : Memory → Nat → List Octet → Memory
  | m, _, [] => m
  | m, a, b :: bs => Memory.writeAll (m.write a b) (a + 1) bs

/-- The octets of `n` consecutive cells from `a`; none when one of them was never written. -/
def Memory.readRange (m : Memory) : Nat → Nat → Option (List Octet)
  | _, 0 => some []
  | a, n + 1 =>
    match m.read a, Memory.readRange m (a + 1) n with
    | some b, some bs => some (b :: bs)
    | some _, none => none
    | none, _ => none

/-- The canonical form: indices strictly rising. No entry can equal what an unlisted cell reads as, since that is nothing. -/
def Memory.wf : Memory → Bool
  | [] => true
  | [_] => true
  | (a, _) :: (b, w) :: m => decide (a < b) && Memory.wf ((b, w) :: m)

/-- Every listed index is below `size`, the buffer's number of cells (R25, R32). -/
def Memory.within (size : Nat) (m : Memory) : Bool :=
  m.all fun c => decide (c.1 < size)

/-! ## The environment's offers -/

/-- The event at hand is done with: the next one in the schedule is at hand. -/
def State.retire (s : State) : State :=
  { s with schedule := s.schedule.tail }

/-- The first octet of the inbound stream is consumed (R59). -/
def State.consume (s : State) : State :=
  { s with inbound := s.inbound.tail }

/-- The first waiting descriptor is accepted from the port (R40). -/
def State.dropDescriptor (s : State) : State :=
  { s with descriptors := s.descriptors.tail }

/-- The half whose event at hand may present a frame: RX for `RxByte`, TX for `TxFrame`. -/
def State.side (s : State) : Option Agent :=
  match s.schedule with
  | [] => none
  | .rxByte :: _ => some .rx
  | .txFrame :: _ => some .tx
  | .reset :: _ => none
  | .frameTake :: _ => none
  | .txByte :: _ => none

/-! ## Error entry, and the only way back -/

/-- `raise E(info)` on the receive side (R166): the error is recorded and put out, and the decoder is in `RX_ERR`. Nothing is
saved for a return. -/
def State.raiseRx (e : ErrCode) (info : Octet) (s : State) : State :=
  { s with rxErr := e, rxErrInfo := info, rxState := .err, rxOut := s.rxOut ++ [.error e info] }

/-- `raise E` on the transmit side (R167): the error is recorded, the encoder is in `TX_ERR`, nothing is emitted. -/
def State.raiseTx (e : ErrCode) (s : State) : State :=
  { s with txErr := e, txState := .err }

/-- `Reset` (R190): every register at its value of R42, the buffers left as they were, no output. -/
def State.resetBlock (s : State) : State :=
  { s with
    rxState := .start, rxLen := 0#8, rxCnt := 0#8, rxErr := .none, rxErrInfo := 0#8,
    txState := .idle, txLen := 0#8, txIdx := 0#8, txErr := .none, resetDone := true }

/-! ## Register updates of the decoder -/

/-- The start octet was seen (R101). -/
def State.toRxLen (s : State) : State :=
  { s with rxState := .len }

/-- The length octet `b` was seen (R102). -/
def State.beginBody (b : Octet) (s : State) : State :=
  { s with rxLen := b, rxCnt := 0#8, rxState := .body }

/-- `rx_buf[rx_cnt] <- b ; rx_cnt <- rx_cnt + 1` (R103). -/
def State.storeRx (b : Octet) (s : State) : State :=
  { s with rxBuf := s.rxBuf.write s.rxCnt.toNat b, rxCnt := s.rxCnt + 1#8 }

/-- The frame `f` is complete: held, and put out as `Frame(f)` (R104). -/
def State.deliver (f : Instr) (s : State) : State :=
  { s with rxState := .hold, rxOut := s.rxOut ++ [.frame f] }

/-- The held frame `f` is returned to the consumer (R107). -/
def State.take (f : Instr) (s : State) : State :=
  { s with rxState := .start, rxOut := s.rxOut ++ [.taken f] }

/-- The body of the frame being received or held: `rx_buf[0..rx_len)` (R28, R104). -/
def State.rxBody (s : State) : Option (List Octet) :=
  s.rxBuf.readRange 0 s.rxLen.toNat

/-! ## Register updates of the encoder -/

/-- The octets `e` of an APDU are in `tx_buf` and are to be sent (R131). -/
def State.loadTx (e : List Octet) (s : State) : State :=
  { s with txBuf := s.txBuf.writeAll 0 e, txLen := BitVec.ofNat 8 e.length, txIdx := 0#8, txState := .send }

/-- `emit b`: one octet onto the outbound stream (R132). -/
def State.emit (b : Octet) (s : State) : State :=
  { s with outbound := s.outbound ++ [b] }

/-- The last octet has gone: idle again (R132). -/
def State.finishTx (s : State) : State :=
  { s with txState := .idle, txIdx := 0#8 }

/-- An octet that is not the last has gone (R132). -/
def State.advanceTx (s : State) : State :=
  { s with txIdx := s.txIdx + 1#8 }

/-! ## A frame on either half -/

/-- The frame `f` on RX, completed by the octet `b` of an `RxByte` event: in `RX_BODY` at the last octet the frame is held and
put out (R104, Ok arm); in `RX_HOLD` the octet waits (R106); in `RX_ERR` it is discarded (R108). -/
def completeRx (f : Instr) (b : Octet) (s : State) : Host.Outcome State Fault Refusal :=
  match s.rxState with
  | .hold => .next s.retire
  | .err => .next s.consume.retire
  | .start => .fault .frameNotPresented
  | .len => .fault .frameNotPresented
  | .body =>
    if s.rxCnt.toNat + 1 = s.rxLen.toNat ∧ s.rxCnt.toNat < Config.rxbSize then
      .next ((s.storeRx b).deliver f).consume.retire
    else .fault .frameNotPresented

/-- The frame `f` on RX with whatever octet is offered; with none, nothing happens (R40: `rx_valid` = 0). -/
def receiveFrame (f : Instr) (s : State) : Host.Outcome State Fault Refusal :=
  match s.inbound with
  | [] => .next s.retire
  | b :: _ => completeRx f b s

/-- The frame `f` on TX, presented as a descriptor: in `TX_IDLE` its octets are loaded (R131), or, for a frame value whose ASDU
is too long, the error R143 gives such a descriptor is entered (DEDUCED, log entry 20); in `TX_SEND` the descriptor waits
(R130); in `TX_ERR` it is discarded (R133). -/
def acceptTx (f : Instr) (s : State) : Host.Outcome State Fault Refusal :=
  match s.txState with
  | .send => .next s.retire
  | .err => .next s.dropDescriptor.retire
  | .idle =>
    if f.wf then .next (s.loadTx (encode f)).dropDescriptor.retire
    else .next (s.raiseTx .frameTooLarge).dropDescriptor.retire

/-- The frame `f` on TX with whatever descriptor is offered; with none, nothing happens (R40: `txc_valid` = 0). -/
def sendFrame (f : Instr) (s : State) : Host.Outcome State Fault Refusal :=
  match s.descriptors with
  | [] => .next s.retire
  | _ :: _ => acceptTx f s

/-- The frame `f` on the half whose event is at hand (log entry 10). -/
def runFrame (f : Instr) (s : State) : Host.Outcome State Fault Refusal :=
  match s.side with
  | some .rx => receiveFrame f s
  | some .tx => sendFrame f s
  | none => .fault .frameNotPresented

end Sys2Proof.Machine
end

