-- ==== Sys2Proof/Machine/Operands.lean ====
section
/-! DEFINITION. The operand forms: a transmit descriptor and the frame value it denotes (R37, R145), and the frame value the
decoder holds (R36, R107). -/

namespace Sys2Proof.Machine

/-- The U function of a 3-bit code (R37); 6 and 7 are not functions. -/
def ufuncFrame (c : BitVec 3) : Option Instr :=
  if c = 0#3 then some .startdtAct
  else if c = 1#3 then some .startdtCon
  else if c = 2#3 then some .stopdtAct
  else if c = 3#3 then some .stopdtCon
  else if c = 4#3 then some .testfrAct
  else if c = 5#3 then some .testfrCon
  else none

/-- `asdu[0..asdu_len)`, the ASDU octets a descriptor presents (R145). -/
def Descriptor.asduOctets (d : Descriptor) : List Octet :=
  d.asdu.toList.take d.asduLen.toNat

/-- The frame value a descriptor denotes; none when it is ill-formed (R145). Fields its kind does not use are ignored. -/
def Descriptor.denote (d : Descriptor) : Option Instr :=
  if d.kind = 0#2 then
    if d.asduLen.toNat ≤ Config.maxAsdu then some (.i d.ns d.nr d.asduOctets) else none
  else if d.kind = 1#2 then some (.s d.nr)
  else if d.kind = 3#2 then ufuncFrame d.ufunc
  else none

/-- `wf(d)` (R145). -/
def Descriptor.wf (d : Descriptor) : Bool :=
  d.denote.isSome

/-- The error an ill-formed descriptor raises (R143). -/
def Descriptor.badCause (d : Descriptor) : ErrCode :=
  if d.kind = 0#2 then .frameTooLarge else .invalidControlField

/-- The frame value the decoder holds: `classify(rx_buf[0..rx_len))` in `RX_HOLD` (R36, R107). -/
def State.heldFrame (s : State) : Option Instr :=
  match s.rxState, s.rxBody.bind decodeBody with
  | .hold, some (.ok f) => some f
  | _, _ => none

/-- The successor of a sequence number (R90): for the user of the codec, not performed by it. -/
def seqInc (n : SeqNum) : SeqNum :=
  n + 1#15

end Sys2Proof.Machine
end

