-- ==== Sys2Proof/Machine/Flags.lean ====
section
/-! DEFINITION. The status outputs (R35), the handshake outputs (R40), the codes (R21, R26, R29, R37) and the decoded-frame
outputs (R36), each a function of state. -/

namespace Sys2Proof.Machine

/-! ## Codes -/

/-- The 3-bit value of `rx_state` (R21). -/
def RxState.code : RxState → BitVec 3
  | .start => 0#3
  | .len => 1#3
  | .body => 2#3
  | .hold => 3#3
  | .err => 4#3

/-- The 2-bit value of `tx_state` (R29). -/
def TxState.code : TxState → BitVec 2
  | .idle => 0#2
  | .send => 1#2
  | .err => 2#2

/-- The 3-bit value of an error register (R26, R160). -/
def errCode : ErrCode → BitVec 3
  | .none => 0#3
  | .invalidStartByte => 1#3
  | .frameTooLarge => 2#3
  | .frameTooShort => 3#3
  | .invalidControlField => 4#3
  | .unexpectedPayload => 5#3

/-- The frame kind code: I = 0, S = 1, U = 3 (R37). -/
def kindCode : Instr → BitVec 2
  | .i _ _ _ => 0#2
  | .s _ => 1#2
  | .startdtAct => 3#2
  | .startdtCon => 3#2
  | .stopdtAct => 3#2
  | .stopdtCon => 3#2
  | .testfrAct => 3#2
  | .testfrCon => 3#2

/-- The U function code; 0 for I and S (R36, R37). -/
def ufuncCode : Instr → BitVec 3
  | .i _ _ _ => 0#3
  | .s _ => 0#3
  | .startdtAct => 0#3
  | .startdtCon => 1#3
  | .stopdtAct => 2#3
  | .stopdtCon => 3#3
  | .testfrAct => 4#3
  | .testfrCon => 5#3

/-- `ns` of an I-frame, 0 otherwise (R36). -/
def nsField : Instr → SeqNum
  | .i ns _ _ => ns
  | .s _ => 0#15
  | .startdtAct => 0#15
  | .startdtCon => 0#15
  | .stopdtAct => 0#15
  | .stopdtCon => 0#15
  | .testfrAct => 0#15
  | .testfrCon => 0#15

/-- `nr` of an I- or S-frame, 0 otherwise (R36). -/
def nrField : Instr → SeqNum
  | .i _ nr _ => nr
  | .s nr => nr
  | .startdtAct => 0#15
  | .startdtCon => 0#15
  | .stopdtAct => 0#15
  | .stopdtCon => 0#15
  | .testfrAct => 0#15
  | .testfrCon => 0#15

/-! ## Status outputs (R35) -/

/-- `rx_need_more`. -/
def State.rxNeedMore (s : State) : Bool :=
  decide (s.rxState = .start ∨ s.rxState = .len ∨ s.rxState = .body)

/-- `rx_partial`. -/
def State.rxPartial (s : State) : Bool :=
  decide (s.rxState = .len ∨ s.rxState = .body)

/-- `frm_valid`. -/
def State.frmValid (s : State) : Bool :=
  decide (s.rxState = .hold)

/-- `rx_fault`. -/
def State.rxFault (s : State) : Bool :=
  decide (s.rxState = .err)

/-- `tx_busy`. -/
def State.txBusy (s : State) : Bool :=
  decide (s.txState = .send)

/-- `tx_fault`. -/
def State.txFault (s : State) : Bool :=
  decide (s.txState = .err)

/-! ## Handshake outputs (R40) -/

/-- `rx_ready`. -/
def State.rxReady (s : State) : Bool :=
  decide (s.rxState = .start ∨ s.rxState = .len ∨ s.rxState = .body ∨ s.rxState = .err)

/-- `txc_ready`. -/
def State.txcReady (s : State) : Bool :=
  decide (s.txState = .idle ∨ s.txState = .err)

/-- `tx_valid`. -/
def State.txValid (s : State) : Bool :=
  decide (s.txState = .send)

/-! ## Decoded-frame outputs (R36) -/

/-- The frame outputs but the ASDU data, which depends on an index. -/
structure FrameOut where
  kind : BitVec 2
  ufunc : BitVec 3
  ns : SeqNum
  nr : SeqNum
  asduLen : BitVec 8
deriving DecidableEq, Repr

/-- `frm_kind`, `frm_ufunc`, `frm_ns`, `frm_nr`, `frm_asdu_len`: the held frame's fields; with no frame held, the free values
of reading number `k` (R36, U6; log entry 6). -/
def State.frameOut (k : Nat) (s : State) : FrameOut :=
  match s.heldFrame with
  | some f =>
    { kind := kindCode f, ufunc := ufuncCode f, ns := nsField f, nr := nrField f,
      asduLen := s.rxLen - BitVec.ofNat 8 Config.ctrlLen }
  | none =>
    { kind := Config.freeKind k, ufunc := Config.freeUfunc k, ns := Config.freeNs k, nr := Config.freeNr k,
      asduLen := Config.freeAsduLen k }

/-- `frm_asdu_data` at index `a`: `rx_buf[4 + a]` while a frame is held and `a` is below its ASDU length; otherwise the free
value of reading number `k` (R36, U6, U7; log entry 6). -/
def State.asduData (k : Nat) (a : BitVec 8) (s : State) : Octet :=
  match s.heldFrame with
  | some _ =>
    if a.toNat + Config.ctrlLen < s.rxLen.toNat then
      (s.rxBuf.read (Config.ctrlLen + a.toNat)).getD (Config.freeAsduData k)
    else Config.freeAsduData k
  | none => Config.freeAsduData k

/-- `tx_data` = `tx_buf[tx_idx]` (R40); where that cell was never written, the free value of reading number `k`
(log entry 7). -/
def State.txData (k : Nat) (s : State) : Octet :=
  (s.txBuf.read s.txIdx.toNat).getD (Config.freeTxData k)

end Sys2Proof.Machine
end

