-- ==== Sys2Proof/Machine/Acknowledge.lean ====
section
/-! DEFINITION. The S-format (R77): the meaning of the Acknowledge frame. -/

namespace Sys2Proof.Machine

/-- `S(nr)`: delivered by the decoder at its last octet (R111), or taken by the encoder, which loads its six octets (R135). -/
def execS (nr : SeqNum) (s : State) : Host.Outcome State Fault Refusal :=
  runFrame (.s nr) s

end Sys2Proof.Machine
end

