-- ==== Sys2Proof/Machine/Control.lean ====
section
/-! DEFINITION. The U-format (R78, R82): the meanings of the six Control frames. Each is delivered by the decoder at its last
octet, or taken by the encoder, which loads its six constant octets. None changes anything else in the codec (R194). -/

namespace Sys2Proof.Machine

/-- `U(STARTDT_ACT)` (R112, R136). -/
def execStartdtAct (s : State) : Host.Outcome State Fault Refusal :=
  runFrame .startdtAct s

/-- `U(STARTDT_CON)` (R113, R137). -/
def execStartdtCon (s : State) : Host.Outcome State Fault Refusal :=
  runFrame .startdtCon s

/-- `U(STOPDT_ACT)` (R114, R138). -/
def execStopdtAct (s : State) : Host.Outcome State Fault Refusal :=
  runFrame .stopdtAct s

/-- `U(STOPDT_CON)` (R115, R139). -/
def execStopdtCon (s : State) : Host.Outcome State Fault Refusal :=
  runFrame .stopdtCon s

/-- `U(TESTFR_ACT)` (R116, R140). -/
def execTestfrAct (s : State) : Host.Outcome State Fault Refusal :=
  runFrame .testfrAct s

/-- `U(TESTFR_CON)` (R117, R141). -/
def execTestfrCon (s : State) : Host.Outcome State Fault Refusal :=
  runFrame .testfrCon s

end Sys2Proof.Machine
end

