-- ==== Sys2Proof/Machine/Numbered.lean ====
section
/-! DEFINITION. The I-format (R75, R76): the meaning of the Numbered data frame. -/

namespace Sys2Proof.Machine

/-- `I(ns, nr, asdu)`: delivered by the decoder at its last octet (R110), or taken by the encoder, which loads its octets, or
raises `FrameTooLarge` when the ASDU has more than 249 octets (R134, R143). -/
def execI (ns nr : SeqNum) (asdu : List Octet) (s : State) : Host.Outcome State Fault Refusal :=
  runFrame (.i ns nr asdu) s

end Sys2Proof.Machine
end

