-- ==== Sys2Proof/Machine/Dispatch.lean ====
section
/-! DEFINITION. One arm per frame kind (R83). -/

namespace Sys2Proof.Machine

/-- What a frame does on the half whose event presents it: RX for the last octet of an `RxByte` event, TX for a `TxFrame`
event. -/
def exec (i : Instr) (s : State) : Host.Outcome State Fault Refusal :=
  match i with
  | .i ns nr asdu => Sys2Proof.Machine.execI ns nr asdu s
  | .s nr => Sys2Proof.Machine.execS nr s
  | .startdtAct => Sys2Proof.Machine.execStartdtAct s
  | .startdtCon => Sys2Proof.Machine.execStartdtCon s
  | .stopdtAct => Sys2Proof.Machine.execStopdtAct s
  | .stopdtCon => Sys2Proof.Machine.execStopdtCon s
  | .testfrAct => Sys2Proof.Machine.execTestfrAct s
  | .testfrCon => Sys2Proof.Machine.execTestfrCon s

end Sys2Proof.Machine
end

