-- ==== Sys2Proof/Machine/Events.lean ====
section
/-! DEFINITION. The five events (00_scope.md §5.3): the step rules of the decoder (R100 to R108), of the encoder (R130 to R133,
R143) and `Reset` (R190). An event that is not enabled does not occur: the offer waits and nothing else changes (R40). -/

namespace Sys2Proof.Machine

/-! ## The decoder -/

/-- `RxByte(b)` in `RX_START` (R101). -/
def startOctet (b : Octet) (s : State) : State :=
  if b = Config.start then s.toRxLen else s.raiseRx .invalidStartByte b

/-- `RxByte(b)` in `RX_LEN` (R102). -/
def lengthOctet (b : Octet) (s : State) : State :=
  if Config.maxLen < b.toNat then s.raiseRx .frameTooLarge b
  else if b.toNat < Config.minLen then s.raiseRx .frameTooShort b
  else s.beginBody b

/-- `RxByte(b)` in `RX_BODY` at the last octet (R104): the whole body is classified; a frame runs, anything else is an error. -/
def lastOctet (b : Octet) (s : State) : Host.Outcome State Fault Refusal :=
  match (s.storeRx b).rxBody with
  | none => .fault .rxCellMissing
  | some body =>
    match decodeBody body with
    | none => .fault .rxBodyTooShort
    | some (.ok f) => exec f s
    | some (.err e info) => .next ((s.storeRx b).raiseRx e info).consume.retire

/-- `RxByte(b)` in `RX_BODY` (R103, R104). -/
def bodyOctet (b : Octet) (s : State) : Host.Outcome State Fault Refusal :=
  if Config.rxbSize ≤ s.rxCnt.toNat then .fault .rxCellMissing
  else if s.rxCnt.toNat + 1 < s.rxLen.toNat then .next (s.storeRx b).consume.retire
  else if s.rxCnt.toNat + 1 = s.rxLen.toNat then lastOctet b s
  else .fault .rxCountPastLength

/-- `RxByte(b)` in each decoder state (R100). -/
def rxOctet (b : Octet) (s : State) : Host.Outcome State Fault Refusal :=
  match s.rxState with
  | .start => .next (startOctet b s).consume.retire
  | .len => .next (lengthOctet b s).consume.retire
  | .body => bodyOctet b s
  | .hold => .next s.retire
  | .err => .next s.consume.retire

/-- `RxByte` with the octet the inbound stream offers; with none offered it does not occur. -/
def rxByteEvent (s : State) : Host.Outcome State Fault Refusal :=
  match s.inbound with
  | [] => .next s.retire
  | b :: _ => rxOctet b s

/-- `FrameTake` (R107), enabled in `RX_HOLD` only (R100). -/
def frameTakeEvent (s : State) : Host.Outcome State Fault Refusal :=
  if s.rxState = .hold then
    match s.heldFrame with
    | some f => .next (s.take f).retire
    | none => .fault .heldFrameInvalid
  else .next s.retire

/-! ## The encoder -/

/-- `TxFrame(d)` with an ill-formed descriptor (R143; R130 and R133 in the other two states). -/
def rejectTx (d : Descriptor) (s : State) : State :=
  match s.txState with
  | .send => s.retire
  | .err => s.dropDescriptor.retire
  | .idle => (s.raiseTx d.badCause).dropDescriptor.retire

/-- `TxFrame(d)`: a well-formed descriptor's frame runs (R131), an ill-formed one is an error (R143). -/
def txDescriptor (d : Descriptor) (s : State) : Host.Outcome State Fault Refusal :=
  match d.denote with
  | some f => exec f s
  | none => .next (rejectTx d s)

/-- `TxFrame` with the descriptor offered; with none offered it does not occur. -/
def txFrameEvent (s : State) : Host.Outcome State Fault Refusal :=
  match s.descriptors with
  | [] => .next s.retire
  | d :: _ => txDescriptor d s

/-- The octet `TxByte` emits, `tx_buf[tx_idx]` (R132), if that cell exists and was written. -/
def State.nextTxOctet (s : State) : Option Octet :=
  if s.txIdx.toNat < Config.txbSize then s.txBuf.read s.txIdx.toNat else none

/-- `TxByte` (R132), enabled in `TX_SEND` only (R130). -/
def txByteEvent (s : State) : Host.Outcome State Fault Refusal :=
  if s.txState = .send then
    match s.nextTxOctet with
    | none => .fault .txCellMissing
    | some b =>
      if s.txIdx.toNat + 1 = s.txLen.toNat then .next (s.emit b).finishTx.retire
      else .next (s.emit b).advanceTx.retire
  else .next s.retire

/-! ## One event -/

/-- An event of the two agents, once a `Reset` has occurred; before that no rule applies (R193, U8). -/
def afterReset (s : State) (event : Host.Outcome State Fault Refusal) : Host.Outcome State Fault Refusal :=
  if s.resetDone then event else .refused .beforeReset

/-- The event `ev`, at hand in `s`. -/
def perform (ev : EventKind) (s : State) : Host.Outcome State Fault Refusal :=
  match ev with
  | .reset => .next s.resetBlock.retire
  | .rxByte => afterReset s (rxByteEvent s)
  | .frameTake => afterReset s (frameTakeEvent s)
  | .txFrame => afterReset s (txFrameEvent s)
  | .txByte => afterReset s (txByteEvent s)

/-- The cells 0.. of `rx_buf` set to all but the last octet of `body`, and `RX_BODY` waiting for that last octet, which the
inbound stream offers next: the decoder one `RxByte` before the frame whose body is `body` runs. -/
def State.placeBody (body : List Octet) (s : State) : State :=
  { s with
    rxState := .body, rxLen := BitVec.ofNat 8 body.length, rxCnt := BitVec.ofNat 8 (body.length - 1),
    rxBuf := s.rxBuf.writeAll 0 body.dropLast, inbound := body.drop (body.length - 1) ++ s.inbound,
    schedule := .rxByte :: s.schedule, resetDone := true }

end Sys2Proof.Machine
end

