-- ==== Sys2Proof/Machine/Step.lean ====
section
/-! DEFINITION. The step: the next event the environment tries (R9, R12), or, with none, waiting with all state retained (R179);
and how the host places an instruction to be fetched next. -/

namespace Sys2Proof.Machine

/-- One step. -/
def step (s : State) : Host.Outcome State Fault Refusal :=
  match s.schedule with
  | [] => .next s
  | ev :: _ => perform ev s

/-- `s` with the instruction of the opcode table's word `w` placed so that the next step runs it: its last octet is the next
octet of the inbound stream and the octets before it have been received (log entry 2). -/
def State.withFetchWord (s : State) (nbits w : Nat) : State :=
  s.placeBody (tableOctets nbits w)

end Sys2Proof.Machine
end

