-- ==== Sys2Proof/Machine/Copies.lean ====
section
/-! DEFINITION. Several connections: independent copies of the block, one per connection (R20, R177). -/

namespace Sys2Proof.Machine

/-- One step of copy `k`; the other copies keep their states, and a `k` that names no copy does nothing. -/
def stepCopy (k : Nat) (copies : List State) : Host.Outcome (List State) Fault Refusal :=
  match copies[k]? with
  | none => .next copies
  | some s =>
    match step s with
    | .next t => .next (copies.set k t)
    | .fault r => .fault r
    | .refused r => .refused r

end Sys2Proof.Machine
end

