-- ==== Sys2Proof/Machine/Ports.lean ====
section
/-! DEFINITION. The port view (R40): one clock cycle's inputs, the events whose handshake completes in it (R41, R191), and the
cycle as a run of steps; the outputs the block drives. -/

namespace Sys2Proof.Machine

/-- The inputs of one cycle (R40), but `frm_asdu_addr`, which only selects what `asduData` reads. -/
structure PortIn where
  rst : Bool
  rxData : Octet
  rxValid : Bool
  frmTake : Bool
  txcValid : Bool
  txc : Descriptor
  txReady : Bool
deriving DecidableEq, Repr

/-- The RX event of a cycle: `RxByte` iff `rx_valid` & `rx_ready`, `FrameTake` iff `frm_valid` & `frm_take` (R40). -/
def rxEventOf (p : PortIn) (s : State) : List EventKind :=
  if p.rxValid && s.rxReady then [.rxByte]
  else if s.frmValid && p.frmTake then [.frameTake]
  else []

/-- The TX event of a cycle: `TxFrame` iff `txc_valid` & `txc_ready`, `TxByte` iff `tx_valid` & `tx_ready` (R40). -/
def txEventOf (p : PortIn) (s : State) : List EventKind :=
  if p.txcValid && s.txcReady then [.txFrame]
  else if s.txValid && p.txReady then [.txByte]
  else []

/-- The events of one cycle: `Reset` alone when `rst` = 1 (R191), else at most one per half (R41). -/
def cycleEvents (p : PortIn) (s : State) : List EventKind :=
  if p.rst then [.reset] else rxEventOf p s ++ txEventOf p s

/-- The state with one cycle's inputs offered and the events `evs` to perform. -/
def State.offer (p : PortIn) (evs : List EventKind) (s : State) : State :=
  { s with
    inbound := if p.rxValid then [p.rxData] else [], descriptors := if p.txcValid then [p.txc] else [],
    schedule := evs }

/-- `n` steps, stopping at the first stop. -/
def runSteps : Nat → State → Host.Outcome State Fault Refusal
  | 0, s => .next s
  | n + 1, s =>
    match step s with
    | .next t => runSteps n t
    | .fault r => .fault r
    | .refused r => .refused r

/-- One clock cycle (R40, R41, R191); the RX event before the TX event, an order that does not matter (R41; log entry 14). -/
def cycle (p : PortIn) (s : State) : Host.Outcome State Fault Refusal :=
  runSteps (cycleEvents p s).length (s.offer p (cycleEvents p s))

/-- The outputs the block drives (R35, R36, R38, R40), reading number `k`, with `frm_asdu_addr` = `a`. -/
structure PortOut where
  rxReady : Bool
  frmValid : Bool
  frm : FrameOut
  frmAsduData : Octet
  rxNeedMore : Bool
  rxPartial : Bool
  rxFault : Bool
  rxErr : BitVec 3
  rxErrInfo : Octet
  txcReady : Bool
  txData : Octet
  txValid : Bool
  txBusy : Bool
  txFault : Bool
  txErr : BitVec 3
deriving DecidableEq, Repr

/-- The block's outputs in a state. -/
def State.portOut (k : Nat) (a : BitVec 8) (s : State) : PortOut where
  rxReady := s.rxReady
  frmValid := s.frmValid
  frm := s.frameOut k
  frmAsduData := s.asduData k a
  rxNeedMore := s.rxNeedMore
  rxPartial := s.rxPartial
  rxFault := s.rxFault
  rxErr := errCode s.rxErr
  rxErrInfo := s.rxErrInfo
  txcReady := s.txcReady
  txData := s.txData k
  txValid := s.txValid
  txBusy := s.txBusy
  txFault := s.txFault
  txErr := errCode s.txErr

end Sys2Proof.Machine
end

