-- ==== Sys2Proof/Safety.lean ====
section
/-! DEFINITION. What counts as a good state: the invariants of the two halves (R28, R34) with the buffers' canonical form; what
the outbound stream may look like (R60, R150); and what it means for one half to be unchanged (R20). -/

namespace Sys2Proof.Machine

/-- The decoder's invariants (R28), with what R25 says of the cells the current frame has written. R28(a) holds by the type of
`rx_state`. -/
structure RxInv (s : State) : Prop where
  /-- Indices of `rx_buf` strictly rise. -/
  bufWf : s.rxBuf.wf = true
  /-- `rx_buf` has cells 0..252 only (R25). -/
  bufWithin : s.rxBuf.within Config.rxbSize = true
  /-- R28(b). -/
  body : s.rxState = .body → 4 ≤ s.rxLen.toNat ∧ s.rxLen.toNat ≤ 253 ∧ s.rxCnt.toNat < s.rxLen.toNat
  /-- Every cell below `rx_cnt` is written while a body is collected (R25). -/
  bodyWritten : s.rxState = .body → ∀ a, a < s.rxCnt.toNat → (s.rxBuf.read a).isSome = true
  /-- R28(c). -/
  hold : s.rxState = .hold →
    4 ≤ s.rxLen.toNat ∧ s.rxLen.toNat ≤ 253 ∧ s.rxCnt = s.rxLen ∧ ∃ f, s.heldFrame = some f
  /-- R28(d). -/
  err : s.rxErr = .none ↔ s.rxState ≠ .err

/-- The frame value last accepted, while its octets go out (R34(b)): it is in `tx_buf`, and the octets before `tx_idx` are the
end of the outbound stream. -/
def Sending (f : Instr) (s : State) : Prop :=
  f.wf = true ∧ s.txLen.toNat = (encode f).length ∧
    s.txBuf.readRange 0 s.txLen.toNat = some (encode f) ∧
    ∃ before, s.outbound = before ++ (encode f).take s.txIdx.toNat

/-- The encoder's invariants (R34), with R33's codes. R34(a) holds by the type of `tx_state`. -/
structure TxInv (s : State) : Prop where
  /-- Indices of `tx_buf` strictly rise. -/
  bufWf : s.txBuf.wf = true
  /-- `tx_buf` has cells 0..254 only (R32). -/
  bufWithin : s.txBuf.within Config.txbSize = true
  /-- R34(b), the ranges. -/
  range : s.txState = .send → 6 ≤ s.txLen.toNat ∧ s.txLen.toNat ≤ 255 ∧ s.txIdx.toNat < s.txLen.toNat
  /-- R34(b), the contents. -/
  sending : s.txState = .send → ∃ f, Sending f s
  /-- R34(c). -/
  err : s.txErr = .none ↔ s.txState ≠ .err
  /-- The encoder produces only codes 0, 2 and 4 (R33). -/
  codes : s.txErr = .none ∨ s.txErr = .frameTooLarge ∨ s.txErr = .invalidControlField

/-- The whole machine's invariant. -/
def Inv (s : State) : Prop :=
  RxInv s ∧ TxInv s

/-- The outbound stream since it read `base` is whole APDUs, then the part already sent of the one in progress (R60(b), R130,
R143). -/
def WholeApdus (base : List Octet) (s : State) : Prop :=
  ∃ fs : List Instr, (∀ f ∈ fs, f.wf = true) ∧
    if s.txState = .send then
      ∃ f : Instr, f.wf = true ∧ s.txLen.toNat = (encode f).length ∧
        s.txBuf.readRange 0 s.txLen.toNat = some (encode f) ∧ s.txIdx.toNat < s.txLen.toNat ∧
        s.outbound = base ++ fs.flatMap encode ++ (encode f).take s.txIdx.toNat
    else s.outbound = base ++ fs.flatMap encode

/-- The decoder's registers, its buffer, its stream and its outputs are the same in both states (R20). -/
def SameRx (s t : State) : Prop :=
  t.rxState = s.rxState ∧ t.rxLen = s.rxLen ∧ t.rxCnt = s.rxCnt ∧ t.rxBuf = s.rxBuf ∧ t.rxErr = s.rxErr ∧
    t.rxErrInfo = s.rxErrInfo ∧ t.inbound = s.inbound ∧ t.rxOut = s.rxOut

/-- The encoder's registers, its buffer, its stream and its waiting descriptors are the same in both states (R20). -/
def SameTx (s t : State) : Prop :=
  t.txState = s.txState ∧ t.txLen = s.txLen ∧ t.txIdx = s.txIdx ∧ t.txBuf = s.txBuf ∧ t.txErr = s.txErr ∧
    t.outbound = s.outbound ∧ t.descriptors = s.descriptors

/-- The environment offers the decoder the octets `bs`, in order, one `RxByte` for each, and takes no frame. -/
def State.feedRx (bs : List Octet) (s : State) : State :=
  { s with inbound := s.inbound ++ bs, schedule := s.schedule ++ bs.map fun _ => .rxByte }

/-- The environment offers the decoder the octets `bs`, in order, and tries to take a frame after each, so that every held
frame is taken at once (R119). -/
def State.playRx (bs : List Octet) (s : State) : State :=
  { s with inbound := s.inbound ++ bs, schedule := s.schedule ++ bs.flatMap fun _ => [.rxByte, .frameTake] }

/-- The environment offers the encoder the descriptors `ds`, in order, each followed by as many `TxByte` events as its frame
has octets (R132, R150). -/
def State.playTx (ds : List Descriptor) (s : State) : State :=
  { s with
    descriptors := s.descriptors ++ ds,
    schedule := s.schedule ++ ds.flatMap fun d => .txFrame :: ((d.denote.map encode).getD []).map fun _ => .txByte }

/-- The decoder's position is after the octets `p` of an APDU that is not complete (R21, R22): nothing, the start octet, or the
header and some body octets, which are in `rx_buf`. -/
def PartialRx (p : List Octet) (s : State) : Prop :=
  match p with
  | [] => s.rxState = .start
  | [_] => s.rxState = .len
  | _ :: l :: q =>
    s.rxState = .body ∧ s.rxLen = l ∧ s.rxCnt.toNat = q.length ∧ s.rxBuf.readRange 0 q.length = some q

end Sys2Proof.Machine
end

