-- ==== Sys2Proof/Certificates/Slice0/Obligations.lean ====
section
/-! DEFINITION. The statements about the Frame Codec, each from the numbered rules of spec/. `step` performs the event at hand,
the first of the schedule (log entry 1); statements about an event name it there. The spec marks R28, R34, R87, R118, R119,
R121, R122, R144 and R146 to R151 as derived, its own inferences: the statements of those are derived ones. -/

open Sys2Proof Sys2Proof.Machine

/-! ## What is at hand -/

/-- `RxByte(b)` is at hand, after a `Reset`: the schedule names it and the inbound stream offers `b`. -/
def Sys2Proof.Machine.RxAtHand (b : Octet) (s : State) : Prop :=
  s.resetDone = true ∧ s.schedule.head? = some .rxByte ∧ s.inbound.head? = some b

/-- `TxFrame(d)` is at hand, after a `Reset`: the schedule names it and `d` is the descriptor offered. -/
def Sys2Proof.Machine.TxAtHand (d : Descriptor) (s : State) : Prop :=
  s.resetDone = true ∧ s.schedule.head? = some .txFrame ∧ s.descriptors.head? = some d

/-- `RxByte(b)` is at hand at the last octet of a frame whose body, `b` included, is `body` (R104). -/
def Sys2Proof.Machine.RxLastAtHand (b : Octet) (body : List Octet) (s : State) : Prop :=
  RxAtHand b s ∧ s.rxState = .body ∧ s.rxCnt.toNat + 1 = s.rxLen.toNat ∧ s.rxLen.toNat ≤ 253 ∧
    (s.rxBuf.write s.rxCnt.toNat b).readRange 0 s.rxLen.toNat = some body

/-- The state after the last octet `b` of the frame `f` (R104, Ok arm). -/
def Sys2Proof.Machine.received (f : Instr) (b : Octet) (s : State) : State :=
  { s with
    rxBuf := s.rxBuf.write s.rxCnt.toNat b, rxCnt := s.rxCnt + 1#8, rxState := .hold, rxOut := s.rxOut ++ [.frame f],
    inbound := s.inbound.tail, schedule := s.schedule.tail }

/-- The state after the last octet `b` of a malformed frame (R104, Err arm; R166). -/
def Sys2Proof.Machine.malformed (e : ErrCode) (info b : Octet) (s : State) : State :=
  { s with
    rxBuf := s.rxBuf.write s.rxCnt.toNat b, rxCnt := s.rxCnt + 1#8, rxState := .err, rxErr := e, rxErrInfo := info,
    rxOut := s.rxOut ++ [.error e info], inbound := s.inbound.tail, schedule := s.schedule.tail }

/-- The state after the encoder has accepted a descriptor whose frame's octets are `e` (R131). -/
def Sys2Proof.Machine.accepted (e : List Octet) (s : State) : State :=
  { s with
    txBuf := s.txBuf.writeAll 0 e, txLen := BitVec.ofNat 8 e.length, txIdx := 0#8, txState := .send,
    descriptors := s.descriptors.tail, schedule := s.schedule.tail }

/-- The state after the encoder has been given an ill-formed descriptor (R143, R167). -/
def Sys2Proof.Machine.rejected (e : ErrCode) (s : State) : State :=
  { s with txErr := e, txState := .err, descriptors := s.descriptors.tail, schedule := s.schedule.tail }

/-! ## Encoding -/

/-- O1 (R147 on octet strings): an encoded frame, whatever follows it on the stream, is decoded as that frame. -/
def Obligations.EncodedFramesDecodeBack : Prop :=
  ∀ (f : Instr) (rest : List Octet), f.wf = true → decodeApdu (encode f ++ rest) = .frame f rest

/-- O2 (R87): the octet strings accepted as one frame are exactly the encodings, and no two decode to one frame value. -/
def Obligations.AcceptedStringsAreTheEncodings : Prop :=
  (∀ (bs : List Octet) (f : Instr), decodeApdu bs = .frame f [] ↔ f.wf = true ∧ bs = encode f) ∧
  ∀ (bs cs : List Octet) (f : Instr), decodeApdu bs = .frame f [] → decodeApdu cs = .frame f [] → bs = cs

/-- O3 (R83, R84, R86 rows 4 to 7): the opcode map decides what a complete body is. At most one row matches a control word; a
frame's own row matches it; a matched I row is an I-frame of any length, a matched S or U row is that frame when nothing
follows the control octets and `UnexpectedPayload(L)` otherwise; with no row, `InvalidControlField(CF1)`. -/
def Obligations.OpcodeMapDecidesTheFrame : Prop :=
  ∀ (cf1 cf2 cf3 cf4 : Octet) (asdu : List Octet), asdu.length ≤ 249 →
    (∀ r ∈ opcodeTable, ∀ r' ∈ opcodeTable, r.matchesWord (controlWord cf1 cf2 cf3 cf4) = true →
      r'.matchesWord (controlWord cf1 cf2 cf3 cf4) = true → r = r') ∧
    (∀ r ∈ opcodeTable, r.matchesWord (controlWord cf1 cf2 cf3 cf4) = true →
      if r.mnemonic = "I" ∨ asdu = [] then
        ∃ f, decodeBody (cf1 :: cf2 :: cf3 :: cf4 :: asdu) = some (.ok f) ∧ f.mnemonic = r.mnemonic ∧ f.asdu = asdu
      else
        decodeBody (cf1 :: cf2 :: cf3 :: cf4 :: asdu) =
          some (.err .unexpectedPayload (BitVec.ofNat 8 (4 + asdu.length)))) ∧
    ((∀ r ∈ opcodeTable, r.matchesWord (controlWord cf1 cf2 cf3 cf4) = false) →
      decodeBody (cf1 :: cf2 :: cf3 :: cf4 :: asdu) = some (.err .invalidControlField cf1))

/-- O4 (R105): `classify`, test by test in the rule's order and with the rule's own shifts. -/
def Obligations.ClassifyIsTheRulesChain : Prop :=
  ∀ (cf1 cf2 cf3 cf4 : Octet) (asdu : List Octet) (ns nr : SeqNum), asdu.length ≤ 249 →
    ns.toNat = (cf2.toNat <<< 7) ||| (cf1.toNat >>> 1) → nr.toNat = (cf4.toNat <<< 7) ||| (cf3.toNat >>> 1) →
    decodeBody (cf1 :: cf2 :: cf3 :: cf4 :: asdu) = some (
      if cf1.toNat % 2 = 0 then
        if cf3.toNat % 2 = 1 then .err .invalidControlField cf1 else .ok (.i ns nr asdu)
      else if cf1.toNat / 2 % 2 = 0 then
        if cf1 ≠ 0x01#8 ∨ cf2 ≠ 0x00#8 ∨ cf3.toNat % 2 = 1 then .err .invalidControlField cf1
        else if 4 + asdu.length ≠ 4 then .err .unexpectedPayload (BitVec.ofNat 8 (4 + asdu.length))
        else .ok (.s nr)
      else if cf2 ≠ 0x00#8 ∨ cf3 ≠ 0x00#8 ∨ cf4 ≠ 0x00#8 ∨
          cf1 ∉ [0x07#8, 0x0B#8, 0x13#8, 0x23#8, 0x43#8, 0x83#8] then .err .invalidControlField cf1
      else if 4 + asdu.length ≠ 4 then .err .unexpectedPayload (BitVec.ofNat 8 (4 + asdu.length))
      else if cf1 = 0x07#8 then .ok .startdtAct
      else if cf1 = 0x0B#8 then .ok .startdtCon
      else if cf1 = 0x13#8 then .ok .stopdtAct
      else if cf1 = 0x23#8 then .ok .stopdtCon
      else if cf1 = 0x43#8 then .ok .testfrAct
      else .ok .testfrCon)

/-- O5 (R81, R82): `encode` is the eight equations, with the rules' own arithmetic. -/
def Obligations.EncodeIsTheEightEquations : Prop :=
  (∀ (ns nr : SeqNum) (asdu : List Octet),
    encode (.i ns nr asdu) =
      [0x68#8, BitVec.ofNat 8 (4 + asdu.length), BitVec.ofNat 8 (ns.toNat % 128 * 2), BitVec.ofNat 8 (ns.toNat / 128),
        BitVec.ofNat 8 (nr.toNat % 128 * 2), BitVec.ofNat 8 (nr.toNat / 128)] ++ asdu) ∧
  (∀ nr : SeqNum,
    encode (.s nr) =
      [0x68#8, 0x04#8, 0x01#8, 0x00#8, BitVec.ofNat 8 (nr.toNat % 128 * 2), BitVec.ofNat 8 (nr.toNat / 128)]) ∧
  (∀ p ∈ [(Instr.startdtAct, 0), (Instr.startdtCon, 1), (Instr.stopdtAct, 2), (Instr.stopdtCon, 3), (Instr.testfrAct, 4),
      (Instr.testfrCon, 5)],
    encode p.1 = [0x68#8, 0x04#8, 0x03#8 ||| (1#8 <<< (p.2 + 2)), 0x00#8, 0x00#8, 0x00#8])

/-- O6 (R142, R144, R146, R85): the start octet, the exact count after it, every reserved bit clear, and the length. -/
def Obligations.EncodedHeaderAndReservedBits : Prop :=
  ∀ f : Instr, f.wf = true → ∃ l cf1 cf2 cf3 cf4 asdu,
    encode f = 0x68#8 :: l :: cf1 :: cf2 :: cf3 :: cf4 :: asdu ∧ l.toNat = (encode f).length - 2 ∧
    (encode f).length = 6 + asdu.length ∧ asdu = f.asdu ∧ 6 ≤ (encode f).length ∧ (encode f).length ≤ 255 ∧
    (kindCode f = 0#2 → (controlWord cf1 cf2 cf3 cf4).getLsbD 16 = false) ∧
    (kindCode f = 1#2 → ∀ k, 2 ≤ k → k ≤ 16 → (controlWord cf1 cf2 cf3 cf4).getLsbD k = false) ∧
    (kindCode f = 3#2 → ∀ k, 8 ≤ k → k ≤ 31 → (controlWord cf1 cf2 cf3 cf4).getLsbD k = false)

/-- O7 (R149): `encode` is injective, no encoding is a proper beginning of another, and a concatenation of encoded frames
splits in exactly one way. -/
def Obligations.EncodeSplitsInOneWay : Prop :=
  (∀ f g : Instr, f.wf = true → g.wf = true → encode f = encode g → f = g) ∧
  (∀ (f g : Instr) (rest : List Octet), f.wf = true → g.wf = true → encode g = encode f ++ rest → rest = []) ∧
  ∀ fs gs : List Instr, (∀ f ∈ fs, f.wf = true) → (∀ g ∈ gs, g.wf = true) →
    fs.flatMap encode = gs.flatMap encode → fs = gs

/-- O8 (R86): an octet string begins with an error exactly in one of the cases of the list, with the error and the recorded
octet of that case. -/
def Obligations.ErrorsAreExactlyTheListed : Prop :=
  ∀ (bs : List Octet) (e : ErrCode) (info : Octet), decodeApdu bs = .error e info ↔
    (∃ b rest, bs = b :: rest ∧ b ≠ 0x68#8 ∧ e = .invalidStartByte ∧ info = b) ∨
    (∃ l rest, bs = 0x68#8 :: l :: rest ∧ 253 < l.toNat ∧ e = .frameTooLarge ∧ info = l) ∨
    (∃ l rest, bs = 0x68#8 :: l :: rest ∧ l.toNat < 4 ∧ e = .frameTooShort ∧ info = l) ∨
    ∃ l cf1 cf2 cf3 cf4 asdu rest, bs = 0x68#8 :: l :: cf1 :: cf2 :: cf3 :: cf4 :: (asdu ++ rest) ∧
      l.toNat = 4 + asdu.length ∧ l.toNat ≤ 253 ∧
      ((e = .invalidControlField ∧ info = cf1 ∧
          ∀ r ∈ opcodeTable, r.matchesWord (controlWord cf1 cf2 cf3 cf4) = false) ∨
        (e = .unexpectedPayload ∧ info = l ∧ 4 < l.toNat ∧
          ∃ r ∈ opcodeTable, r.mnemonic ≠ "I" ∧ r.matchesWord (controlWord cf1 cf2 cf3 cf4) = true))

/-- O9: a few words written out from the spec's encodings, one per format and the nearest refusals (V-I3, V-S3, V-U1, V-U6,
V-E7, V-E15). -/
def Obligations.SpecWordsDecode : Prop :=
  decodeApdu [0x68#8, 0x06#8, 0x02#8, 0x00#8, 0x04#8, 0x00#8, 0xAA#8, 0xBB#8] = .frame (.i 1#15 2#15 [0xAA#8, 0xBB#8]) [] ∧
  decodeApdu [0x68#8, 0x04#8, 0x01#8, 0x00#8, 0x0A#8, 0x00#8] = .frame (.s 5#15) [] ∧
  decodeApdu [0x68#8, 0x04#8, 0x07#8, 0x00#8, 0x00#8, 0x00#8] = .frame .startdtAct [] ∧
  decodeApdu [0x68#8, 0x04#8, 0x83#8, 0x00#8, 0x00#8, 0x00#8] = .frame .testfrCon [] ∧
  decodeApdu [0x68#8, 0x04#8, 0x03#8, 0x00#8, 0x00#8, 0x00#8] = .error .invalidControlField 0x03#8 ∧
  decodeApdu [0x68#8, 0x04#8, 0x01#8, 0x00#8, 0x01#8, 0x00#8] = .error .invalidControlField 0x01#8

/-! ## Codes and outputs -/

/-- O10 (R37): the codes of kinds and functions, on the ports and against `CF1`. -/
def Obligations.CodesMirrorTheWireBits : Prop :=
  (∀ (ns nr : SeqNum) (asdu : List Octet), kindCode (.i ns nr asdu) = 0#2) ∧ (∀ nr : SeqNum, kindCode (.s nr) = 1#2) ∧
  (∀ f : Instr, kindCode f ≠ 2#2) ∧
  (∀ (f : Instr) (cf1 : Octet), (encodeBody f).head? = some cf1 →
    kindCode f = if cf1.getLsbD 0 = false then 0#2 else cf1.extractLsb' 0 2) ∧
  (∀ (f : Instr) (c : BitVec 3), ufuncFrame c = some f →
    kindCode f = 3#2 ∧ ufuncCode f = c ∧
      ∀ cf1, (encodeBody f).head? = some cf1 → ∀ j, 2 ≤ j → j ≤ 7 → (cf1.getLsbD j = true ↔ j = c.toNat + 2)) ∧
  [ufuncFrame 0#3, ufuncFrame 1#3, ufuncFrame 2#3, ufuncFrame 3#3, ufuncFrame 4#3, ufuncFrame 5#3, ufuncFrame 6#3,
      ufuncFrame 7#3] =
    [some .startdtAct, some .startdtCon, some .stopdtAct, some .stopdtCon, some .testfrAct, some .testfrCon, none, none]

/-- O11 (R26, R33, R35, R40, R160): the numbers of the error codes; the six status outputs, exactly one of `rx_need_more`,
`frm_valid`, `rx_fault` being 1; the handshake outputs in every state; `tx_data`; and which output each port carries. -/
def Obligations.StatusOutputsFollowTheState : Prop :=
  (errCode .none = 0#3 ∧ errCode .invalidStartByte = 1#3 ∧ errCode .frameTooLarge = 2#3 ∧ errCode .frameTooShort = 3#3 ∧
    errCode .invalidControlField = 4#3 ∧ errCode .unexpectedPayload = 5#3) ∧
  (∀ s : State,
    (s.rxNeedMore = true ↔ s.rxState.code = 0#3 ∨ s.rxState.code = 1#3 ∨ s.rxState.code = 2#3) ∧
    (s.rxPartial = true ↔ s.rxState.code = 1#3 ∨ s.rxState.code = 2#3) ∧
    (s.frmValid = true ↔ s.rxState.code = 3#3) ∧ (s.rxFault = true ↔ s.rxState.code = 4#3) ∧
    (s.txBusy = true ↔ s.txState.code = 1#2) ∧ (s.txFault = true ↔ s.txState.code = 2#2) ∧
    (s.rxNeedMore.toNat + s.frmValid.toNat + s.rxFault.toNat = 1)) ∧
  (∀ s : State,
    (s.rxReady = true ↔
      s.rxState.code = 0#3 ∨ s.rxState.code = 1#3 ∨ s.rxState.code = 2#3 ∨ s.rxState.code = 4#3) ∧
    (s.txcReady = true ↔ s.txState.code = 0#2 ∨ s.txState.code = 2#2) ∧
    (s.txValid = true ↔ s.txState.code = 1#2)) ∧
  (∀ (s : State) (k : Nat) (b : Octet), s.txBuf.read s.txIdx.toNat = some b → s.txData k = b) ∧
  (∀ (s : State) (k : Nat), Inv s → s.txValid = true → s.txBuf.read s.txIdx.toNat = some (s.txData k)) ∧
  (∀ (s : State) (k : Nat) (a : BitVec 8), s.portOut k a =
    { rxReady := s.rxReady, frmValid := s.frmValid, frm := s.frameOut k, frmAsduData := s.asduData k a,
      rxNeedMore := s.rxNeedMore, rxPartial := s.rxPartial, rxFault := s.rxFault, rxErr := errCode s.rxErr,
      rxErrInfo := s.rxErrInfo, txcReady := s.txcReady, txData := s.txData k, txValid := s.txValid, txBusy := s.txBusy,
      txFault := s.txFault, txErr := errCode s.txErr }) ∧
  (∀ s : State, Inv s →
    (s.rxFault = true ↔ errCode s.rxErr ≠ 0#3) ∧ (s.txFault = true ↔ errCode s.txErr ≠ 0#3)) ∧
  State.reset.rxNeedMore = true ∧ State.reset.rxPartial = false ∧ State.reset.frmValid = false ∧
  State.reset.rxFault = false ∧ State.reset.txBusy = false ∧ State.reset.txFault = false

/-- O12 (R36): while a frame is held the frame outputs present it, at every reading; nothing is said of them otherwise. -/
def Obligations.FrameOutputsPresentTheHeldFrame : Prop :=
  ∀ (s : State) (k : Nat), Inv s → s.frmValid = true →
    ∃ (f : Instr) (body : List Octet), s.rxBuf.readRange 0 s.rxLen.toNat = some body ∧
      decodeBody body = some (.ok f) ∧
      (s.frameOut k).kind = kindCode f ∧ (s.frameOut k).ufunc = ufuncCode f ∧
      (s.frameOut k).ns = nsField f ∧ (s.frameOut k).nr = nrField f ∧
      (s.frameOut k).asduLen.toNat = s.rxLen.toNat - 4 ∧ f.asdu.length = s.rxLen.toNat - 4 ∧
      ∀ a : BitVec 8, a.toNat < (s.frameOut k).asduLen.toNat →
        s.rxBuf.read (4 + a.toNat) = some (s.asduData k a) ∧ f.asdu[a.toNat]? = some (s.asduData k a)

/-! ## Reset -/

/-- O13 (R42): the values after `Reset`, of the state after reset and of the state the event `Reset` leaves. -/
def Obligations.ResetLeavesTheListedValues : Prop :=
  ∀ s t : State, t = State.reset ∨ (s.schedule.head? = some .reset ∧ step s = .next t) →
    t.rxState.code = 0#3 ∧ t.rxLen = 0#8 ∧ t.rxCnt = 0#8 ∧ errCode t.rxErr = 0#3 ∧ t.rxErrInfo = 0#8 ∧
    t.txState.code = 0#2 ∧ t.txLen = 0#8 ∧ t.txIdx = 0#8 ∧ errCode t.txErr = 0#3 ∧
    t.rxReady = true ∧ t.rxNeedMore = true ∧ t.rxPartial = false ∧ t.frmValid = false ∧ t.rxFault = false ∧
    t.txcReady = true ∧ t.txValid = false ∧ t.txBusy = false ∧ t.txFault = false

/-- O14 (R190): `Reset` has its effect in every state, leaves the buffers and puts nothing out, and no other event clears an
error or touches both halves. -/
def Obligations.ResetIsTheOnlyWayBack : Prop :=
  (∀ s : State, s.schedule.head? = some .reset →
    step s = .next { s with
      rxState := .start, rxLen := 0#8, rxCnt := 0#8, rxErr := .none, rxErrInfo := 0#8, txState := .idle, txLen := 0#8,
      txIdx := 0#8, txErr := .none, resetDone := true, schedule := s.schedule.tail }) ∧
  ∀ s t : State, Inv s → s.schedule.head? ≠ some .reset → step s = .next t →
    (s.rxErr ≠ .none → t.rxErr = s.rxErr ∧ t.rxErrInfo = s.rxErrInfo) ∧ (s.txErr ≠ .none → t.txErr = s.txErr) ∧
    (SameRx s t ∨ SameTx s t)

/-- O15 (R193, U8): before the first `Reset` no event but `Reset` has a step; the model's log entry 5 says how it stops. -/
def Obligations.NoRuleBeforeTheFirstReset : Prop :=
  ∀ (s : State) (ev : EventKind), s.resetDone = false → s.schedule.head? = some ev → ev ≠ .reset →
    step s = .refused .beforeReset

/-! ## The step -/

/-- O16: where the octets received up to and including the one at hand are the body of a well-formed frame, the step is that
frame's meaning. -/
def Obligations.StepRunsTheReceivedFrame : Prop :=
  ∀ (s : State) (b : Octet) (body : List Octet) (f : Instr), RxLastAtHand b body s → decodeBody body = some (.ok f) →
    step s = exec f s

/-- O17: where the descriptor at hand denotes a frame, the step is that frame's meaning. -/
def Obligations.StepRunsTheDescriptorsFrame : Prop :=
  ∀ (s : State) (d : Descriptor) (f : Instr), TxAtHand d s → d.denote = some f → step s = exec f s

/-- O18: an instruction placed for fetching is the next one run, and completes. -/
def Obligations.PlacedWordsRunNext : Prop :=
  ∀ (s : State) (nbits w : Nat) (f : Instr), decodeTableWord nbits w = some f →
    step (s.withFetchWord nbits w) = exec f (s.withFetchWord nbits w) ∧
    ∃ t, step (s.withFetchWord nbits w) = .next t ∧ t.heldFrame = some f ∧ t.rxOut = s.rxOut ++ [.frame f]

/-! ## The decoder's step rules -/

/-- O19 (R100): which events are enabled: each enabled one has a successor and at most one output; one that is not enabled
leaves the decoder and the stream as they are. -/
def Obligations.DecoderEventsEnabled : Prop :=
  ∀ (s : State) (b : Octet), Inv s → s.resetDone = true → s.inbound.head? = some b →
    (s.schedule.head? = some .rxByte → s.rxState ≠ .hold →
      ∃ t out, step s = .next t ∧ t.inbound = s.inbound.tail ∧ t.rxOut = s.rxOut ++ out ∧ out.length ≤ 1) ∧
    (s.schedule.head? = some .rxByte → s.rxState = .hold → ∀ t, step s = .next t → SameRx s t) ∧
    (s.schedule.head? = some .frameTake → s.rxState = .hold →
      ∃ t f, step s = .next t ∧ t.rxState = .start ∧ t.rxOut = s.rxOut ++ [.taken f]) ∧
    (s.schedule.head? = some .frameTake → s.rxState ≠ .hold → ∀ t, step s = .next t → SameRx s t)

/-- O20 (R101): the octet at a frame boundary. -/
def Obligations.StartOctetRule : Prop :=
  ∀ (s : State) (b : Octet), RxAtHand b s → s.rxState = .start →
    step s = .next (
      if b = 0x68#8 then { s with rxState := .len, inbound := s.inbound.tail, schedule := s.schedule.tail }
      else { s with
        rxState := .err, rxErr := .invalidStartByte, rxErrInfo := b, rxOut := s.rxOut ++ [.error .invalidStartByte b],
        inbound := s.inbound.tail, schedule := s.schedule.tail })

/-- O21 (R102): the length octet. -/
def Obligations.LengthOctetRule : Prop :=
  ∀ (s : State) (b : Octet), RxAtHand b s → s.rxState = .len →
    step s = .next (
      if 253 < b.toNat then { s with
        rxState := .err, rxErr := .frameTooLarge, rxErrInfo := b, rxOut := s.rxOut ++ [.error .frameTooLarge b],
        inbound := s.inbound.tail, schedule := s.schedule.tail }
      else if b.toNat < 4 then { s with
        rxState := .err, rxErr := .frameTooShort, rxErrInfo := b, rxOut := s.rxOut ++ [.error .frameTooShort b],
        inbound := s.inbound.tail, schedule := s.schedule.tail }
      else { s with
        rxLen := b, rxCnt := 0#8, rxState := .body, inbound := s.inbound.tail, schedule := s.schedule.tail })

/-- O22 (R103): a body octet that is not the last. -/
def Obligations.BodyOctetRule : Prop :=
  ∀ (s : State) (b : Octet), RxAtHand b s → s.rxState = .body → s.rxLen.toNat ≤ 253 →
    s.rxCnt.toNat + 1 < s.rxLen.toNat →
    step s = .next { s with
      rxBuf := s.rxBuf.write s.rxCnt.toNat b, rxCnt := s.rxCnt + 1#8, inbound := s.inbound.tail,
      schedule := s.schedule.tail }

/-- O23 (R104): the last octet of a frame, in every state that meets the decoder's invariant. -/
def Obligations.LastOctetRule : Prop :=
  ∀ (s : State) (b : Octet), RxInv s → RxAtHand b s → s.rxState = .body → s.rxCnt.toNat + 1 = s.rxLen.toNat →
    ∃ body c, (s.rxBuf.write s.rxCnt.toNat b).readRange 0 s.rxLen.toNat = some body ∧ decodeBody body = some c ∧
      match c with
      | .ok f =>
        step s = .next (received f b s) ∧ (received f b s).heldFrame = some f ∧
          (∀ k, (received f b s).frameOut k =
            { kind := kindCode f, ufunc := ufuncCode f, ns := nsField f, nr := nrField f, asduLen := s.rxLen - 4#8 }) ∧
          ∀ (k : Nat) (a : BitVec 8), a.toNat < f.asdu.length →
            f.asdu[a.toNat]? = some ((received f b s).asduData k a)
      | .err e info => step s = .next (malformed e info b s)

/-- O24 (R106): while a frame is held no octet is accepted and the decoder keeps everything, until `FrameTake` or `Reset`. -/
def Obligations.HeldFrameBlocksTheStream : Prop :=
  ∀ s : State, s.rxState = .hold →
    s.rxReady = false ∧
    ∀ t, step s = .next t →
      (s.schedule.head? ≠ some .frameTake → s.schedule.head? ≠ some .reset → SameRx s t) ∧
      (t.rxState ≠ .hold → s.schedule.head? = some .frameTake ∨ s.schedule.head? = some .reset)

/-- O25 (R107): `FrameTake` returns the held frame value, and the decoder is at a frame boundary. -/
def Obligations.FrameTakeRule : Prop :=
  ∀ s : State, RxInv s → s.resetDone = true → s.schedule.head? = some .frameTake → s.rxState = .hold →
    ∃ f body, s.rxBuf.readRange 0 s.rxLen.toNat = some body ∧ decodeBody body = some (.ok f) ∧
      step s = .next { s with rxState := .start, rxOut := s.rxOut ++ [.taken f], schedule := s.schedule.tail }

/-- O26 (R108): in `RX_ERR` an octet is discarded, and nothing but `Reset` leads out or puts anything out. -/
def Obligations.FailedDecoderDiscards : Prop :=
  ∀ s : State, s.rxState = .err →
    (∀ b, RxAtHand b s → step s = .next { s with inbound := s.inbound.tail, schedule := s.schedule.tail }) ∧
    ∀ t, s.schedule.head? ≠ some .reset → step s = .next t →
      t.rxState = .err ∧ t.rxOut = s.rxOut ∧ t.rxErr = s.rxErr ∧ t.rxErrInfo = s.rxErrInfo

/-- O27 (R120): after an octet other than 0x68 at a frame boundary the decoder stays failed whatever follows, as long as no
`Reset` comes. -/
def Obligations.NoResynchronisation : Prop :=
  ∀ (s t u : State) (b : Octet) (n : Nat), RxAtHand b s → s.rxState = .start → b ≠ 0x68#8 → step s = .next t →
    EventKind.reset ∉ t.schedule → runSteps n t = .next u →
    u.rxState = .err ∧ u.rxErr = .invalidStartByte ∧ u.rxErrInfo = b ∧
      u.rxOut = s.rxOut ++ [.error .invalidStartByte b]

/-- O28 (R121): inside a body every octet value is stored as data. -/
def Obligations.BodyOctetsAreData : Prop :=
  ∀ (s : State) (b : Octet), RxInv s → RxAtHand b s → s.rxState = .body →
    ∃ t, step s = .next t ∧ t.rxBuf.read s.rxCnt.toNat = some b ∧ t.rxCnt.toNat = s.rxCnt.toNat + 1 ∧
      t.rxState ≠ .start ∧ t.rxState ≠ .len

/-- O29 (R122): the transitions of `rx_state`, row by row, and no others. -/
def Obligations.DecoderTransitionTable : Prop :=
  (∀ (s : State) (b : Octet), RxInv s → RxAtHand b s →
    ∃ t, step s = .next t ∧
      (s.rxState = .start → t.rxState = if b = 0x68#8 then .len else .err) ∧
      (s.rxState = .len → t.rxState = if 4 ≤ b.toNat ∧ b.toNat ≤ 253 then .body else .err) ∧
      (s.rxState = .body → s.rxCnt.toNat + 1 < s.rxLen.toNat → t.rxState = .body) ∧
      (s.rxState = .body → s.rxCnt.toNat + 1 = s.rxLen.toNat →
        ∀ body c, (s.rxBuf.write s.rxCnt.toNat b).readRange 0 s.rxLen.toNat = some body → decodeBody body = some c →
          t.rxState = match c with
            | .ok _ => .hold
            | .err _ _ => .err) ∧
      (s.rxState = .err → t.rxState = .err)) ∧
  (∀ s : State, RxInv s → s.resetDone = true → s.schedule.head? = some .frameTake → s.rxState = .hold →
    ∃ t, step s = .next t ∧ t.rxState = .start) ∧
  (∀ s : State, s.schedule.head? = some .reset → ∃ t, step s = .next t ∧ t.rxState = .start) ∧
  ∀ s t : State, step s = .next t → t.rxState ≠ s.rxState →
    s.schedule.head? = some .reset ∨ (s.schedule.head? = some .frameTake ∧ s.rxState = .hold ∧ t.rxState = .start) ∨
    (s.schedule.head? = some .rxByte ∧
      (s.rxState, t.rxState) ∈ [(RxState.start, RxState.len), (.start, .err), (.len, .body), (.len, .err), (.body, .hold),
        (.body, .err)])

/-- O30 (R166): entering an error records its code and octet, puts it out as the step's one output, leaves `rx_len` and the
other half alone, and takes nothing back. -/
def Obligations.DecoderErrorEntry : Prop :=
  ∀ s t : State, s.rxState ≠ .err → step s = .next t → t.rxState = .err →
    ∃ (e : ErrCode) (info : Octet), e ≠ .none ∧ t.rxErr = e ∧ t.rxErrInfo = info ∧
      t.rxOut = s.rxOut ++ [.error e info] ∧ t.rxLen = s.rxLen ∧ SameTx s t ∧
      (s.rxState ≠ .body → t.rxCnt = s.rxCnt ∧ t.rxBuf = s.rxBuf)

/-! ## Each frame kind on the decoder -/

/-- O31 (R110): an I-frame completes at its last octet, with its frame outputs, or is an `InvalidControlField`. -/
def Obligations.ReceiveNumberedFrame : Prop :=
  ∀ (s : State) (b cf1 cf2 cf3 cf4 : Octet) (asdu : List Octet),
    RxLastAtHand b (cf1 :: cf2 :: cf3 :: cf4 :: asdu) s → cf1.getLsbD 0 = false →
    (cf3.getLsbD 0 = true → step s = .next (malformed .invalidControlField cf1 b s)) ∧
    (cf3.getLsbD 0 = false →
      ∃ ns nr : SeqNum, ns.toNat = cf2.toNat * 128 + cf1.toNat / 2 ∧ nr.toNat = cf4.toNat * 128 + cf3.toNat / 2 ∧
        step s = exec (.i ns nr asdu) s ∧
        exec (.i ns nr asdu) s = .next (received (.i ns nr asdu) b s) ∧
        (received (.i ns nr asdu) b s).frmValid = true ∧
        ∀ k, (received (.i ns nr asdu) b s).frameOut k =
          { kind := 0#2, ufunc := 0#3, ns := ns, nr := nr, asduLen := s.rxLen - 4#8 })

/-- O32 (R111): an S-frame completes at its last octet, with its frame outputs, or is an `InvalidControlField`, or else an
`UnexpectedPayload`. -/
def Obligations.ReceiveAcknowledgeFrame : Prop :=
  ∀ (s : State) (b cf1 cf2 cf3 cf4 : Octet) (asdu : List Octet),
    RxLastAtHand b (cf1 :: cf2 :: cf3 :: cf4 :: asdu) s → cf1.getLsbD 0 = true → cf1.getLsbD 1 = false →
    if cf1 ≠ 0x01#8 ∨ cf2 ≠ 0x00#8 ∨ cf3.getLsbD 0 = true then
      step s = .next (malformed .invalidControlField cf1 b s)
    else if s.rxLen ≠ 4#8 then step s = .next (malformed .unexpectedPayload s.rxLen b s)
    else
      ∃ nr : SeqNum, nr.toNat = cf4.toNat * 128 + cf3.toNat / 2 ∧ step s = exec (.s nr) s ∧
        exec (.s nr) s = .next (received (.s nr) b s) ∧ (received (.s nr) b s).frmValid = true ∧
        ∀ k, (received (.s nr) b s).frameOut k =
          { kind := 1#2, ufunc := 0#3, ns := 0#15, nr := nr, asduLen := 0#8 }

/-- O33 (R112 to R117): each of the six U-frames completes at its last octet, with its frame outputs; its pattern with more
octets is an `UnexpectedPayload`; any other U-format control word is an `InvalidControlField`. -/
def Obligations.ReceiveControlFrame : Prop :=
  (∀ p ∈ [(Instr.startdtAct, 0x07#8, 0#3), (Instr.startdtCon, 0x0B#8, 1#3), (Instr.stopdtAct, 0x13#8, 2#3),
      (Instr.stopdtCon, 0x23#8, 3#3), (Instr.testfrAct, 0x43#8, 4#3), (Instr.testfrCon, 0x83#8, 5#3)],
    ∀ (s : State) (b : Octet) (asdu : List Octet), RxLastAtHand b (p.2.1 :: 0#8 :: 0#8 :: 0#8 :: asdu) s →
      if s.rxLen ≠ 4#8 then step s = .next (malformed .unexpectedPayload s.rxLen b s)
      else
        step s = exec p.1 s ∧ exec p.1 s = .next (received p.1 b s) ∧ (received p.1 b s).frmValid = true ∧
          ∀ k, (received p.1 b s).frameOut k =
            { kind := 3#2, ufunc := p.2.2, ns := 0#15, nr := 0#15, asduLen := 0#8 }) ∧
  ∀ (s : State) (b cf1 cf2 cf3 cf4 : Octet) (asdu : List Octet),
    RxLastAtHand b (cf1 :: cf2 :: cf3 :: cf4 :: asdu) s → cf1.getLsbD 0 = true → cf1.getLsbD 1 = true →
    (cf1 ∉ [0x07#8, 0x0B#8, 0x13#8, 0x23#8, 0x43#8, 0x83#8] ∨ cf2 ≠ 0#8 ∨ cf3 ≠ 0#8 ∨ cf4 ≠ 0#8) →
    step s = .next (malformed .invalidControlField cf1 b s)

/-- O34: the frame of all eight kinds on the decoder: the encoder's half, `rx_len` and the error registers are unchanged, and
so is every cell of `rx_buf` but the one at `rx_cnt`, which takes the octet at hand. -/
def Obligations.ReceivedFrameChangesOnlyItsCell : Prop :=
  ∀ (f : Instr) (s t : State) (b : Octet), s.schedule.head? = some .rxByte → s.inbound.head? = some b →
    s.rxState = .body → exec f s = .next t →
    SameTx s t ∧ t.rxLen = s.rxLen ∧ t.rxErr = s.rxErr ∧ t.rxErrInfo = s.rxErrInfo ∧ t.resetDone = s.resetDone ∧
      t.schedule = s.schedule.tail ∧ t.inbound = s.inbound.tail ∧ t.rxCnt = s.rxCnt + 1#8 ∧
      t.rxBuf.read s.rxCnt.toNat = some b ∧ ∀ a, a ≠ s.rxCnt.toNat → t.rxBuf.read a = s.rxBuf.read a

/-! ## The encoder's step rules -/

/-- O35 (R130): which events are enabled: outside `TX_SEND` a descriptor is accepted, in it none is, whatever the event, until
the last `TxByte` or `Reset` lifts the wait; `TxByte` emits in `TX_SEND` and does nothing outside it. -/
def Obligations.EncoderEventsEnabled : Prop :=
  (∀ (s : State) (d : Descriptor), TxAtHand d s → s.txState ≠ .send →
    s.txcReady = true ∧ ∃ t, step s = .next t ∧ t.descriptors = s.descriptors.tail) ∧
  (∀ s t : State, s.txState = .send → step s = .next t →
    s.txcReady = false ∧ t.descriptors = s.descriptors ∧
      (t.txState ≠ .send →
        s.schedule.head? = some .reset ∨
          (s.schedule.head? = some .txByte ∧ s.txIdx.toNat + 1 = s.txLen.toNat))) ∧
  (∀ s : State, Inv s → s.resetDone = true → s.schedule.head? = some .txByte → s.txState = .send →
    ∃ t b, step s = .next t ∧ s.txBuf.read s.txIdx.toNat = some b ∧ t.outbound = s.outbound ++ [b] ∧
      (t.txState ≠ .send ↔ s.txIdx.toNat + 1 = s.txLen.toNat)) ∧
  (∀ s t : State, s.schedule.head? = some .txByte → s.txState ≠ .send → step s = .next t → SameTx s t) ∧
  ∀ s t : State, s.schedule.head? ≠ some .txByte → step s = .next t → t.outbound = s.outbound

/-- O36 (R131): a well-formed descriptor in `TX_IDLE`: the cells of the encoded frame are written, cells above are not. -/
def Obligations.AcceptDescriptorRule : Prop :=
  ∀ (s : State) (d : Descriptor) (f : Instr), TxAtHand d s → s.txState = .idle → d.denote = some f →
    6 ≤ (encode f).length ∧ (encode f).length ≤ 255 ∧ step s = .next (accepted (encode f) s) ∧
      (∀ i, i < (encode f).length → (accepted (encode f) s).txBuf.read i = (encode f)[i]?) ∧
      ∀ i, (encode f).length ≤ i → (accepted (encode f) s).txBuf.read i = s.txBuf.read i

/-- O37 (R132): `TxByte` emits the octet at `tx_idx`; exactly `tx_len` of them follow an accepted descriptor and emit
`tx_buf[0..tx_len)` in order. -/
def Obligations.EmitOctetRule : Prop :=
  (∀ (s : State) (b : Octet), s.resetDone = true → s.schedule.head? = some .txByte → s.txState = .send →
    s.txIdx.toNat < 255 → s.txBuf.read s.txIdx.toNat = some b →
    step s = .next (
      if s.txIdx.toNat + 1 = s.txLen.toNat then { s with
        outbound := s.outbound ++ [b], txState := .idle, txIdx := 0#8, schedule := s.schedule.tail }
      else { s with outbound := s.outbound ++ [b], txIdx := s.txIdx + 1#8, schedule := s.schedule.tail })) ∧
  ∀ (s : State) (e : List Octet) (n : Nat), s.resetDone = true → s.txState = .send → s.txIdx = 0#8 →
    s.txLen.toNat = e.length → e ≠ [] → s.txBuf.readRange 0 e.length = some e → n ≤ e.length →
    (∀ k, k < n → s.schedule[k]? = some .txByte) →
    ∃ t, runSteps n s = .next t ∧ t.outbound = s.outbound ++ e.take n ∧
      (t.txState = if n = e.length then .idle else .send) ∧ t.txBuf = s.txBuf ∧ t.txLen = s.txLen ∧ t.txErr = s.txErr

/-- O38 (R133): in `TX_ERR` a descriptor is discarded, and nothing is emitted or changed until `Reset`. -/
def Obligations.FailedEncoderDiscards : Prop :=
  ∀ s : State, s.txState = .err →
    (∀ d, TxAtHand d s → step s = .next { s with descriptors := s.descriptors.tail, schedule := s.schedule.tail }) ∧
    ∀ t, s.schedule.head? ≠ some .reset → step s = .next t →
      t.txState = .err ∧ t.outbound = s.outbound ∧ t.txErr = s.txErr ∧ t.txBuf = s.txBuf ∧ t.txLen = s.txLen ∧
        t.txIdx = s.txIdx

/-- O39 (R143, R167): an ill-formed descriptor in `TX_IDLE`. -/
def Obligations.RejectDescriptorRule : Prop :=
  ∀ (s : State) (d : Descriptor), TxAtHand d s → s.txState = .idle →
    (d.kind = 0#2 → 249 < d.asduLen.toNat → step s = .next (rejected .frameTooLarge s)) ∧
    (d.kind = 2#2 ∨ (d.kind = 3#2 ∧ 6 ≤ d.ufunc.toNat) → step s = .next (rejected .invalidControlField s)) ∧
    (d.wf = false → (d.kind = 0#2 ∧ 249 < d.asduLen.toNat) ∨ d.kind = 2#2 ∨ (d.kind = 3#2 ∧ 6 ≤ d.ufunc.toNat))

/-- O40 (R145): which descriptors are well-formed, and what they denote. -/
def Obligations.DescriptorWellFormedness : Prop :=
  ∀ d : Descriptor,
    (d.kind = 0#2 → d.asduLen.toNat ≤ 249 → d.denote = some (.i d.ns d.nr (d.asdu.toList.take d.asduLen.toNat))) ∧
    (d.kind = 1#2 → d.denote = some (.s d.nr)) ∧
    (d.kind = 3#2 → d.ufunc.toNat ≤ 5 → ∃ f, d.denote = some f ∧ kindCode f = 3#2 ∧ ufuncCode f = d.ufunc) ∧
    (d.wf = false ↔
      d.kind = 2#2 ∨ (d.kind = 3#2 ∧ (d.ufunc = 6#3 ∨ d.ufunc = 7#3)) ∨ (d.kind = 0#2 ∧ 250 ≤ d.asduLen.toNat))

/-- O41 (R151): the transitions of `tx_state`, row by row, and no others. -/
def Obligations.EncoderTransitionTable : Prop :=
  (∀ (s : State) (d : Descriptor), TxAtHand d s →
    ∃ t, step s = .next t ∧ (s.txState = .idle → t.txState = if d.wf then .send else .err) ∧
      (s.txState = .err → t.txState = .err)) ∧
  (∀ s : State, TxInv s → s.resetDone = true → s.schedule.head? = some .txByte → s.txState = .send →
    ∃ t, step s = .next t ∧ t.txState = if s.txIdx.toNat + 1 < s.txLen.toNat then .send else .idle) ∧
  (∀ s : State, s.schedule.head? = some .reset → ∃ t, step s = .next t ∧ t.txState = .idle) ∧
  ∀ s t : State, step s = .next t → t.txState ≠ s.txState →
    s.schedule.head? = some .reset ∨ (s.schedule.head? = some .txByte ∧ s.txState = .send ∧ t.txState = .idle) ∨
    (s.schedule.head? = some .txFrame ∧ s.txState = .idle ∧ (t.txState = .send ∨ t.txState = .err))

/-! ## Each frame kind on the encoder -/

/-- O42 (R134): an I descriptor: the frame completes with the six octets the rule gives and the ASDU unchanged, or the
descriptor is too large. What `exec` does with a frame value of that size is O60. -/
def Obligations.SendNumberedFrame : Prop :=
  ∀ (s : State) (d : Descriptor) (asdu : List Octet), TxAtHand d s → s.txState = .idle → d.kind = 0#2 →
    asdu = d.asdu.toList.take d.asduLen.toNat →
    (asdu.length ≤ 249 →
      step s = exec (.i d.ns d.nr asdu) s ∧
      exec (.i d.ns d.nr asdu) s = .next (accepted (
        [0x68#8, BitVec.ofNat 8 (4 + asdu.length), BitVec.ofNat 8 (d.ns.toNat % 128 * 2), BitVec.ofNat 8 (d.ns.toNat / 128),
          BitVec.ofNat 8 (d.nr.toNat % 128 * 2), BitVec.ofNat 8 (d.nr.toNat / 128)] ++ asdu) s) ∧
      (accepted (encode (.i d.ns d.nr asdu)) s).txBusy = true ∧ (encode (.i d.ns d.nr asdu)).length = 6 + asdu.length) ∧
    (249 < asdu.length → step s = .next (rejected .frameTooLarge s))

/-- O43 (R135): an S descriptor: the frame completes with the six octets the rule gives, whatever its other fields. -/
def Obligations.SendAcknowledgeFrame : Prop :=
  ∀ (s : State) (d : Descriptor), TxAtHand d s → s.txState = .idle → d.kind = 1#2 →
    step s = exec (.s d.nr) s ∧
    exec (.s d.nr) s = .next (accepted
      [0x68#8, 0x04#8, 0x01#8, 0x00#8, BitVec.ofNat 8 (d.nr.toNat % 128 * 2), BitVec.ofNat 8 (d.nr.toNat / 128)] s) ∧
    (accepted (encode (.s d.nr)) s).txBusy = true

/-- O44 (R136 to R141): each of the six U descriptors: the frame completes with its six constant octets, whatever the
descriptor's other fields. -/
def Obligations.SendControlFrame : Prop :=
  ∀ p ∈ [(Instr.startdtAct, 0x07#8, 0#3), (Instr.startdtCon, 0x0B#8, 1#3), (Instr.stopdtAct, 0x13#8, 2#3),
      (Instr.stopdtCon, 0x23#8, 3#3), (Instr.testfrAct, 0x43#8, 4#3), (Instr.testfrCon, 0x83#8, 5#3)],
    ∀ (s : State) (d : Descriptor), TxAtHand d s → s.txState = .idle → d.kind = 3#2 → d.ufunc = p.2.2 →
      step s = exec p.1 s ∧
      exec p.1 s = .next (accepted [0x68#8, 0x04#8, p.2.1, 0x00#8, 0x00#8, 0x00#8] s) ∧
      (accepted [0x68#8, 0x04#8, p.2.1, 0x00#8, 0x00#8, 0x00#8] s).txBusy = true

/-- O45: the frame of all eight kinds on the encoder: the decoder's half and the outbound stream are unchanged; a frame that is
loaded writes the cells below its length and no other; one that waits, is discarded or is not offered writes none and changes
no register of the encoder; a frame value of more than 249 ASDU octets in `TX_IDLE` writes no cell and enters `FrameTooLarge`,
which no `step` asks of `exec` (the model's reading of R143, log entry 20). -/
def Obligations.SentFrameChangesOnlyItsCells : Prop :=
  ∀ (f : Instr) (s t : State), s.schedule.head? = some .txFrame → exec f s = .next t →
    SameRx s t ∧ t.outbound = s.outbound ∧ t.resetDone = s.resetDone ∧ t.schedule = s.schedule.tail ∧
      (if s.descriptors ≠ [] ∧ s.txState = .idle ∧ f.wf = true then
        t.txErr = s.txErr ∧ ∀ a, (encode f).length ≤ a → t.txBuf.read a = s.txBuf.read a
      else
        t.txBuf = s.txBuf ∧ t.txLen = s.txLen ∧ t.txIdx = s.txIdx ∧
          (if s.txState ≠ .idle ∨ s.descriptors = [] then t.txErr = s.txErr ∧ t.txState = s.txState
          else t.txErr = .frameTooLarge ∧ t.txState = .err))

/-! ## The whole machine -/

/-- O46: the state after reset meets the invariants R28 and R34. -/
def Obligations.ResetMeetsTheInvariants : Prop :=
  Inv State.reset

/-- O47 (R28, R34): every step from a state that meets the invariants leads to one that does. -/
def Obligations.StepsKeepTheInvariants : Prop :=
  ∀ s t : State, Inv s → step s = .next t → Inv t

/-- O48: in a state that meets the invariants, after a `Reset`, no step stops: the machine goes on with every event. -/
def Obligations.NoStepStops : Prop :=
  ∀ s : State, Inv s → s.resetDone = true → ∃ t, step s = .next t

/-- O49: every step keeps both buffers in canonical form and within their cells, given only that. -/
def Obligations.StepsKeepTheBuffersCanonical : Prop :=
  ∀ s t : State, s.rxBuf.wf = true → s.rxBuf.within 253 = true → s.txBuf.wf = true → s.txBuf.within 255 = true →
    step s = .next t →
    t.rxBuf.wf = true ∧ t.rxBuf.within 253 = true ∧ t.txBuf.wf = true ∧ t.txBuf.within 255 = true

/-- O50 (R60(b), R143, R197): as long as no `Reset` cuts a frame, the outbound stream stays a concatenation of whole legal
APDUs, followed by the sent part of the one in progress. -/
def Obligations.OutboundStaysWholeApdus : Prop :=
  ∀ (base : List Octet) (s t : State), WholeApdus base s → step s = .next t →
    (s.schedule.head? = some .reset → s.txState ≠ .send) → WholeApdus base t

/-- O51 (R20): what an event of one half does to that half does not depend on the other half, which it leaves alone. -/
def Obligations.HalvesDoNotInteract : Prop :=
  (∀ s s' t : State, SameRx s s' → s'.resetDone = s.resetDone → s'.schedule.head? = s.schedule.head? →
    (s.schedule.head? = some .rxByte ∨ s.schedule.head? = some .frameTake) → step s = .next t →
    SameTx s t ∧ ∃ t', step s' = .next t' ∧ SameRx t t' ∧ SameTx s' t') ∧
  ∀ s s' t : State, SameTx s s' → s'.resetDone = s.resetDone → s'.schedule.head? = s.schedule.head? →
    (s.schedule.head? = some .txFrame ∨ s.schedule.head? = some .txByte) → step s = .next t →
    SameRx s t ∧ ∃ t', step s' = .next t' ∧ SameTx t t' ∧ SameRx s' t'

/-- O52 (R169): an error is left only by `Reset`: until then what is offered is accepted and discarded, nothing is put out, the
registers keep the first error's values, and the other half goes on as if there were no error. -/
def Obligations.ErrorsStayUntilReset : Prop :=
  (∀ s t : State, s.rxState = .err → s.schedule.head? ≠ some .reset → step s = .next t →
    t.rxState = .err ∧ t.rxErr = s.rxErr ∧ t.rxErrInfo = s.rxErrInfo ∧ t.rxOut = s.rxOut ∧
      (s.schedule.head? = some .rxByte → t.inbound = s.inbound.tail)) ∧
  (∀ s t : State, s.txState = .err → s.schedule.head? ≠ some .reset → step s = .next t →
    t.txState = .err ∧ t.txErr = s.txErr ∧ t.outbound = s.outbound ∧
      (s.schedule.head? = some .txFrame → t.descriptors = s.descriptors.tail)) ∧
  (∀ (s t : State) (r : RxState) (e : ErrCode),
    (s.schedule.head? = some .txFrame ∨ s.schedule.head? = some .txByte) → step s = .next t →
    step { s with rxState := r, rxErr := e } = .next { t with rxState := r, rxErr := e }) ∧
  ∀ (s t : State) (r : TxState) (e : ErrCode),
    (s.schedule.head? = some .rxByte ∨ s.schedule.head? = some .frameTake) → step s = .next t →
    step { s with txState := r, txErr := e } = .next { t with txState := r, txErr := e }

/-- O53 (R41, R191): no two events of one half are ever enabled together, an event is a cycle's exactly when its handshake
completes (R40), so a cycle has at most one RX and at most one TX event, which commute; with `rst` it has `Reset` alone. -/
def Obligations.CycleEventsCommute : Prop :=
  (∀ s : State, ¬ (s.rxReady = true ∧ s.frmValid = true) ∧ ¬ (s.txcReady = true ∧ s.txValid = true) ∧
    (s.rxState = .hold → s.rxReady = false) ∧ (s.rxState ≠ .hold → s.frmValid = false) ∧
    (s.txState = .send → s.txcReady = false) ∧ (s.txState ≠ .send → s.txValid = false)) ∧
  (∀ (p : PortIn) (s : State),
    (EventKind.rxByte ∈ rxEventOf p s ↔ p.rxValid = true ∧ s.rxReady = true) ∧
    (EventKind.frameTake ∈ rxEventOf p s ↔ s.frmValid = true ∧ p.frmTake = true) ∧
    (EventKind.txFrame ∈ txEventOf p s ↔ p.txcValid = true ∧ s.txcReady = true) ∧
    (EventKind.txByte ∈ txEventOf p s ↔ s.txValid = true ∧ p.txReady = true)) ∧
  ∀ (p : PortIn) (s : State), Inv s → s.resetDone = true →
    (rxEventOf p s).length ≤ 1 ∧ (txEventOf p s).length ≤ 1 ∧
    (∀ ev ∈ rxEventOf p s, ev = .rxByte ∨ ev = .frameTake) ∧ (∀ ev ∈ txEventOf p s, ev = .txFrame ∨ ev = .txByte) ∧
    (p.rst = true → cycleEvents p s = [.reset] ∧ cycle p s = .next ((s.offer p []).resetBlock)) ∧
    (p.rst = false →
      ∃ t, cycle p s = .next t ∧
        runSteps (cycleEvents p s).length (s.offer p (txEventOf p s ++ rxEventOf p s)) = .next t)

/-- O54 (R118): grouping of octets has no effect, and a proper beginning of a legal APDU leaves the decoder waiting for more
octets, with the rest completing the frame. -/
def Obligations.PartialFramesResume : Prop :=
  (∀ (s : State) (p q : List Octet), s.schedule = [] → s.inbound = [] → s.resetDone = true →
    runSteps (p ++ q).length (s.feedRx (p ++ q)) =
      match runSteps p.length (s.feedRx p) with
      | .next t => runSteps q.length (t.feedRx q)
      | .fault r => .fault r
      | .refused r => .refused r) ∧
  ∀ (s : State) (f : Instr) (p q : List Octet), s.schedule = [] → s.inbound = [] → s.resetDone = true →
    s.rxState = .start → s.rxErr = .none → f.wf = true → encode f = p ++ q → q ≠ [] →
    ∃ t, runSteps p.length (s.feedRx p) = .next t ∧ PartialRx p t ∧ t.rxNeedMore = true ∧ t.rxErr = .none ∧
      t.rxOut = s.rxOut ∧
      ∃ u, runSteps q.length (t.feedRx q) = .next u ∧ u.rxState = .hold ∧ u.heldFrame = some f ∧
        u.rxOut = s.rxOut ++ [.frame f]

/-- O55 (R147): an encoded frame fed to a decoder at a frame boundary puts out nothing before its last octet and `Frame(f)` at
it, and is then held. -/
def Obligations.LoopbackDeliversTheFrame : Prop :=
  ∀ (s : State) (f : Instr), f.wf = true → s.schedule = [] → s.inbound = [] → s.resetDone = true → s.rxState = .start →
    decodeBody ((encode f).drop 2) = some (.ok f) ∧
    (∀ n, n < (encode f).length → ∃ t, runSteps n (s.feedRx (encode f)) = .next t ∧ t.rxOut = s.rxOut) ∧
    ∃ u, runSteps (encode f).length (s.feedRx (encode f)) = .next u ∧ u.rxOut = s.rxOut ++ [.frame f] ∧
      u.rxState = .hold ∧ u.heldFrame = some f

/-- O56 (R148): a decoder at a frame boundary puts out `Frame(f)` exactly at the last octet of a string, and nothing before, if
and only if the string is `encode(f)`. -/
def Obligations.DecoderAcceptsExactlyTheEncodings : Prop :=
  ∀ (s : State) (bs : List Octet) (f : Instr), s.schedule = [] → s.inbound = [] → s.resetDone = true →
    s.rxState = .start →
    ((bs ≠ [] ∧ (∀ n, n < bs.length → ∃ t, runSteps n (s.feedRx bs) = .next t ∧ t.rxOut = s.rxOut) ∧
        ∃ u, runSteps bs.length (s.feedRx bs) = .next u ∧ u.rxOut = s.rxOut ++ [.frame f]) ↔
      f.wf = true ∧ bs = encode f)

/-- O57 (R119): a stream of encoded frames, every frame taken at once, puts out exactly those frames; then an incomplete
beginning leaves its partial state, and an error is put out once, with nothing after it whatever follows. -/
def Obligations.StreamPutsOutItsFrames : Prop :=
  ∀ (s : State) (fs : List Instr) (p : List Octet), (∀ f ∈ fs, f.wf = true) → s.schedule = [] → s.inbound = [] →
    s.resetDone = true → s.rxState = .start →
    (decodeApdu p = .needMore →
      ∃ t, runSteps (2 * (fs.flatMap encode ++ p).length) (s.playRx (fs.flatMap encode ++ p)) = .next t ∧
        t.rxOut = s.rxOut ++ (fs.flatMap fun f => [RxOutput.frame f, .taken f]) ∧ PartialRx p t) ∧
    ∀ e info, decodeApdu p = .error e info →
      ∃ t, runSteps (2 * (fs.flatMap encode ++ p).length) (s.playRx (fs.flatMap encode ++ p)) = .next t ∧
        t.rxOut = s.rxOut ++ (fs.flatMap fun f => [RxOutput.frame f, .taken f]) ++ [.error e info] ∧
        t.rxState = .err ∧ t.rxErr = e ∧ t.rxErrInfo = info

/-- O58 (R150): the descriptors an encoder accepts leave it as the concatenation of their encoded frames, and that stream, fed
to a decoder with every frame taken, puts out those frames in order. -/
def Obligations.EncoderStreamLoopsBack : Prop :=
  ∀ (s : State) (ds : List Descriptor) (fs : List Instr), ds.map Descriptor.denote = fs.map some → s.schedule = [] →
    s.descriptors = [] → s.inbound = [] → s.resetDone = true → s.txState = .idle → s.rxState = .start →
    (∃ t, runSteps (s.playTx ds).schedule.length (s.playTx ds) = .next t ∧ t.txState = .idle ∧
      t.outbound = s.outbound ++ fs.flatMap encode) ∧
    ∃ u, runSteps (2 * (fs.flatMap encode).length) (s.playRx (fs.flatMap encode)) = .next u ∧ u.rxState = .start ∧
      u.rxOut = s.rxOut ++ fs.flatMap fun f => [RxOutput.frame f, .taken f]

/-- O59 (R177): a step of one connection's copy changes no other copy, and what it does depends on that copy alone. -/
def Obligations.ConnectionsAreIndependent : Prop :=
  ∀ (cs cs' : List State) (k : Nat) (s : State), cs[k]? = some s → stepCopy k cs = .next cs' →
    (∃ t, step s = .next t ∧ cs'[k]? = some t) ∧ cs'.length = cs.length ∧ ∀ j, j ≠ k → cs'[j]? = cs[j]?

/-! ## A frame value no descriptor denotes -/

/-- O60 (the model's choice, log entry 20): `exec` of an I-frame value of more than 249 ASDU octets, with a descriptor offered
in `TX_IDLE`. No descriptor denotes such a value, no `step` runs it, and R143 is vacuous for typed frames: the model gives it
the effect R143 gives the descriptor of that size. -/
def Obligations.OversizedFrameValueIsTooLarge : Prop :=
  ∀ (s : State) (d : Descriptor) (ns nr : SeqNum) (asdu : List Octet), TxAtHand d s → s.txState = .idle →
    249 < asdu.length → exec (.i ns nr asdu) s = .next (rejected .frameTooLarge s) ∧ d.denote ≠ some (.i ns nr asdu)
end

