-- ==== Sys2Proof/Laws/Codec.lean ====
section
/-! SUPPORT. The laws of the pure codec: the two halves of a sequence number (R80, R81), and `classify` against `encodeBody`
(R87). -/

namespace Sys2Proof

/-! ## Sequence numbers -/

theorem seqOf_seqLo_seqHi (n : SeqNum) : seqOf (seqLo n) (seqHi n) = n := by
  apply BitVec.eq_of_getLsbD_eq
  intro i hi
  simp only [seqOf, seqLo, seqHi, BitVec.getLsbD_append, BitVec.getLsbD_extractLsb']
  by_cases h : i < 7
  · simp [h]
  · have h1 : i - 7 < 8 := by omega
    have h2 : 7 + (i - 7) = i := by omega
    simp [h, h1, h2]

theorem seqLo_getLsbD_zero (n : SeqNum) : (seqLo n).getLsbD 0 = false := by
  rw [seqLo, BitVec.getLsbD_append]
  simp

theorem seqHi_seqOf (lo hi : Octet) : seqHi (seqOf lo hi) = hi := by
  apply BitVec.eq_of_getLsbD_eq
  intro i hi'
  simp only [seqOf, seqHi, BitVec.getLsbD_append, BitVec.getLsbD_extractLsb']
  simp [hi']

theorem seqLo_seqOf {lo : Octet} (hi : Octet) (h : lo.getLsbD 0 = false) : seqLo (seqOf lo hi) = lo := by
  apply BitVec.eq_of_getLsbD_eq
  intro i hi'
  simp only [seqOf, seqLo, BitVec.getLsbD_append, BitVec.getLsbD_extractLsb']
  by_cases h0 : i = 0
  · subst i
    simpa using h
  · have h1 : ¬ i < 1 := by omega
    have h2 : i - 1 < 7 := by omega
    have h3 : 1 + (i - 1) = i := by omega
    simp [h1, h2, h3]

/-- R80 as arithmetic: the high octet weighs 128, the low octet's upper seven bits weigh 1. -/
theorem seqOf_toNat (lo hi : Octet) : (seqOf lo hi).toNat = hi.toNat * 128 + lo.toNat / 2 := by
  have h := lo.isLt
  simp only [seqOf, BitVec.toNat_append, BitVec.extractLsb'_toNat, Nat.shiftRight_eq_div_pow]
  rw [← Nat.shiftLeft_add_eq_or_of_lt (Nat.mod_lt _ (by decide)), Nat.shiftLeft_eq]
  omega

/-- The low octet of R81 as arithmetic. -/
theorem seqLo_eq (n : SeqNum) : seqLo n = BitVec.ofNat 8 (n.toNat % 128 * 2) := by
  apply BitVec.eq_of_toNat_eq
  simp only [seqLo, BitVec.toNat_append, BitVec.extractLsb'_toNat]
  simp [Nat.shiftLeft_eq]
  omega

/-- The high octet of R81 as arithmetic. -/
theorem seqHi_eq (n : SeqNum) : seqHi n = BitVec.ofNat 8 (n.toNat / 128) := by
  apply BitVec.eq_of_toNat_eq
  simp [seqHi, BitVec.extractLsb'_toNat, Nat.shiftRight_eq_div_pow]

/-- The control word as a number (R73). -/
theorem controlWord_toNat (cf1 cf2 cf3 cf4 : Octet) :
    (controlWord cf1 cf2 cf3 cf4).toNat =
      cf1.toNat + 256 * cf2.toNat + 65536 * cf3.toNat + 16777216 * cf4.toNat := by
  have h1 := cf1.isLt
  have h2 := cf2.isLt
  have h3 := cf3.isLt
  simp only [controlWord, BitVec.toNat_append]
  rw [← Nat.shiftLeft_add_eq_or_of_lt h3, ← Nat.shiftLeft_add_eq_or_of_lt h2, ← Nat.shiftLeft_add_eq_or_of_lt h1]
  simp only [Nat.shiftLeft_eq]
  omega

/-- Which octet holds bit `k` of the control word (R73). -/
theorem controlWord_getLsbD (cf1 cf2 cf3 cf4 : Octet) {k : Nat} (h : k < 32) :
    (controlWord cf1 cf2 cf3 cf4).getLsbD k =
      if k < 8 then cf1.getLsbD k
      else if k < 16 then cf2.getLsbD (k - 8)
      else if k < 24 then cf3.getLsbD (k - 16)
      else cf4.getLsbD (k - 24) := by
  simp only [controlWord, BitVec.getLsbD_append]
  split_ifs <;> first | rfl | omega

/-! ## The body of a frame -/

theorem encodeBody_length (f : Instr) : (encodeBody f).length = 4 + f.asdu.length := by
  cases f <;> simp [encodeBody, uBody, Instr.asdu]
  omega

theorem encode_length (f : Instr) : (encode f).length = 6 + f.asdu.length := by
  simp [encode, encodeBody_length]
  omega

theorem wf_iff (f : Instr) : f.wf = true ↔ f.asdu.length ≤ 249 := by
  rw [Instr.wf, decide_eq_true_eq]
  rfl

/-- A well-formed frame's body has a legal length (R72). -/
theorem encodeBody_length_le {f : Instr} (h : f.wf = true) :
    4 ≤ (encodeBody f).length ∧ (encodeBody f).length ≤ 253 := by
  rw [wf_iff] at h
  rw [encodeBody_length]
  omega

/-- Four octets and the rest. -/
theorem exists_four {l : List Octet} (h : 4 ≤ l.length) : ∃ a b c d rest, l = a :: b :: c :: d :: rest := by
  match l, h with
  | a :: b :: c :: d :: rest, _ => exact ⟨a, b, c, d, rest, rfl⟩

/-- `decodeBody` answers exactly on bodies of 4 to 253 octets (R105). -/
theorem decodeBody_isSome_iff (body : List Octet) :
    (decodeBody body).isSome = true ↔ 4 ≤ body.length ∧ body.length ≤ 253 := by
  rcases body with _ | ⟨a, _ | ⟨b, _ | ⟨c, _ | ⟨d, rest⟩⟩⟩⟩ <;>
    simp only [decodeBody, Config.maxAsdu, List.length_cons, List.length_nil]
  · simp
  · simp
  · simp
  · simp
  · by_cases h : rest.length ≤ 249
    · simp [h]
      omega
    · simp [h]
      omega

/-- The six U functions and their patterns (R82). -/
theorem uFrameOf_eq_some {cf1 : Octet} {f : Instr} (h : uFrameOf cf1 = some f) :
    encodeBody f = uBody cf1 ∧ f.asdu = [] := by
  unfold uFrameOf at h
  repeat' split at h
  all_goals first
    | (cases h; subst cf1; exact ⟨rfl, rfl⟩)
    | cases h

/-- What `classify` accepts is what the encoder writes (R87). -/
theorem classify_eq_ok {cf1 cf2 cf3 cf4 : Octet} {asdu : List Octet} {f : Instr}
    (h : classify cf1 cf2 cf3 cf4 asdu = .ok f) :
    cf1 :: cf2 :: cf3 :: cf4 :: asdu = encodeBody f ∧ f.asdu = asdu := by
  unfold classify at h
  split at h
  · rename_i h1
    unfold classifyI at h
    split at h
    · cases h
    · rename_i h3
      cases h
      simp only [encodeBody, Instr.asdu, and_true]
      rw [seqLo_seqOf _ h1, seqHi_seqOf, seqLo_seqOf _ (by simpa using h3), seqHi_seqOf]
  · split at h
    · unfold classifyS at h
      split at h
      · cases h
      · rename_i h3
        split at h
        · cases h
        · rename_i h4
          push Not at h3 h4
          cases h
          simp only [encodeBody, Instr.asdu]
          rw [h4, h3.1, h3.2.1, seqLo_seqOf _ (by simpa using h3.2.2), seqHi_seqOf]
          exact ⟨rfl, rfl⟩
    · unfold classifyU at h
      split at h
      · cases h
      · rename_i h3
        push Not at h3
        split at h
        · cases h
        · rename_i g hg
          split at h
          · cases h
          · rename_i h4
            push Not at h4
            cases h
            obtain ⟨he, ha⟩ := uFrameOf_eq_some hg
            rw [he, ha, h4, h3.1, h3.2.1, h3.2.2]
            exact ⟨rfl, rfl⟩

/-- A body that is a frame is that frame's encoding (R87). -/
theorem decodeBody_eq_ok {body : List Octet} {f : Instr} (h : decodeBody body = some (.ok f)) :
    f.wf = true ∧ body = encodeBody f := by
  have hs : (decodeBody body).isSome = true := by simp [h]
  obtain ⟨h4, h253⟩ := (decodeBody_isSome_iff body).1 hs
  obtain ⟨a, b, c, d, rest, rfl⟩ := exists_four h4
  simp only [decodeBody] at h
  split at h
  · rename_i hl
    obtain ⟨h1, h2⟩ := classify_eq_ok (Option.some.inj h)
    exact ⟨by rw [wf_iff, h2]; exact hl, h1⟩
  · cases h

end Sys2Proof
end

