-- ==== Sys2Proof/Laws/PerInstr.lean ====
section
/-! SUPPORT. Statements made per frame kind: the body the encoder writes is classified as the frame it was written for (R147, in
function form, on the body). -/

namespace Sys2Proof.Laws

/-- A well-formed frame's body is classified as that frame. -/
def BodyRoundTrip.Statement (f : Instr) : Prop :=
  f.wf = true → decodeBody (encodeBody f) = some (.ok f)

theorem BodyRoundTrip.i (ns nr : SeqNum) (asdu : List Octet) : BodyRoundTrip.Statement (.i ns nr asdu) := by
  intro h
  rw [wf_iff] at h
  have h' : asdu.length ≤ Config.maxAsdu := h
  simp only [encodeBody, decodeBody, if_pos h', classify, classifyI, seqLo_getLsbD_zero, if_true,
    seqOf_seqLo_seqHi, Bool.false_eq_true, if_false]

theorem BodyRoundTrip.s (nr : SeqNum) : BodyRoundTrip.Statement (.s nr) := by
  intro _
  have h0 : ¬(0x01#8 : Octet).getLsbD 0 = false := by decide
  have h1 : (0x01#8 : Octet).getLsbD 1 = false := by decide
  simp only [encodeBody, decodeBody, classify, if_neg h0, if_pos h1, classifyS, seqLo_getLsbD_zero]
  simp [seqOf_seqLo_seqHi]

theorem BodyRoundTrip.startdtAct : BodyRoundTrip.Statement .startdtAct := fun _ => by decide

theorem BodyRoundTrip.startdtCon : BodyRoundTrip.Statement .startdtCon := fun _ => by decide

theorem BodyRoundTrip.stopdtAct : BodyRoundTrip.Statement .stopdtAct := fun _ => by decide

theorem BodyRoundTrip.stopdtCon : BodyRoundTrip.Statement .stopdtCon := fun _ => by decide

theorem BodyRoundTrip.testfrAct : BodyRoundTrip.Statement .testfrAct := fun _ => by decide

theorem BodyRoundTrip.testfrCon : BodyRoundTrip.Statement .testfrCon := fun _ => by decide

end Sys2Proof.Laws
end

