-- ==== Sys2Proof/Laws/State.lean ====
section
/-! SUPPORT. What each named update of the state does to each field: one lemma per field per update. -/

namespace Sys2Proof.Machine

variable (s : State)

@[simp] theorem State.retire_rxState : (s.retire).rxState = s.rxState := rfl
@[simp] theorem State.retire_rxLen : (s.retire).rxLen = s.rxLen := rfl
@[simp] theorem State.retire_rxCnt : (s.retire).rxCnt = s.rxCnt := rfl
@[simp] theorem State.retire_rxBuf : (s.retire).rxBuf = s.rxBuf := rfl
@[simp] theorem State.retire_rxErr : (s.retire).rxErr = s.rxErr := rfl
@[simp] theorem State.retire_rxErrInfo : (s.retire).rxErrInfo = s.rxErrInfo := rfl
@[simp] theorem State.retire_txState : (s.retire).txState = s.txState := rfl
@[simp] theorem State.retire_txLen : (s.retire).txLen = s.txLen := rfl
@[simp] theorem State.retire_txIdx : (s.retire).txIdx = s.txIdx := rfl
@[simp] theorem State.retire_txBuf : (s.retire).txBuf = s.txBuf := rfl
@[simp] theorem State.retire_txErr : (s.retire).txErr = s.txErr := rfl
@[simp] theorem State.retire_inbound : (s.retire).inbound = s.inbound := rfl
@[simp] theorem State.retire_outbound : (s.retire).outbound = s.outbound := rfl
@[simp] theorem State.retire_rxOut : (s.retire).rxOut = s.rxOut := rfl
@[simp] theorem State.retire_descriptors : (s.retire).descriptors = s.descriptors := rfl
@[simp] theorem State.retire_schedule : (s.retire).schedule = s.schedule.tail := rfl
@[simp] theorem State.retire_resetDone : (s.retire).resetDone = s.resetDone := rfl

@[simp] theorem State.consume_rxState : (s.consume).rxState = s.rxState := rfl
@[simp] theorem State.consume_rxLen : (s.consume).rxLen = s.rxLen := rfl
@[simp] theorem State.consume_rxCnt : (s.consume).rxCnt = s.rxCnt := rfl
@[simp] theorem State.consume_rxBuf : (s.consume).rxBuf = s.rxBuf := rfl
@[simp] theorem State.consume_rxErr : (s.consume).rxErr = s.rxErr := rfl
@[simp] theorem State.consume_rxErrInfo : (s.consume).rxErrInfo = s.rxErrInfo := rfl
@[simp] theorem State.consume_txState : (s.consume).txState = s.txState := rfl
@[simp] theorem State.consume_txLen : (s.consume).txLen = s.txLen := rfl
@[simp] theorem State.consume_txIdx : (s.consume).txIdx = s.txIdx := rfl
@[simp] theorem State.consume_txBuf : (s.consume).txBuf = s.txBuf := rfl
@[simp] theorem State.consume_txErr : (s.consume).txErr = s.txErr := rfl
@[simp] theorem State.consume_inbound : (s.consume).inbound = s.inbound.tail := rfl
@[simp] theorem State.consume_outbound : (s.consume).outbound = s.outbound := rfl
@[simp] theorem State.consume_rxOut : (s.consume).rxOut = s.rxOut := rfl
@[simp] theorem State.consume_descriptors : (s.consume).descriptors = s.descriptors := rfl
@[simp] theorem State.consume_schedule : (s.consume).schedule = s.schedule := rfl
@[simp] theorem State.consume_resetDone : (s.consume).resetDone = s.resetDone := rfl

@[simp] theorem State.dropDescriptor_rxState : (s.dropDescriptor).rxState = s.rxState := rfl
@[simp] theorem State.dropDescriptor_rxLen : (s.dropDescriptor).rxLen = s.rxLen := rfl
@[simp] theorem State.dropDescriptor_rxCnt : (s.dropDescriptor).rxCnt = s.rxCnt := rfl
@[simp] theorem State.dropDescriptor_rxBuf : (s.dropDescriptor).rxBuf = s.rxBuf := rfl
@[simp] theorem State.dropDescriptor_rxErr : (s.dropDescriptor).rxErr = s.rxErr := rfl
@[simp] theorem State.dropDescriptor_rxErrInfo : (s.dropDescriptor).rxErrInfo = s.rxErrInfo := rfl
@[simp] theorem State.dropDescriptor_txState : (s.dropDescriptor).txState = s.txState := rfl
@[simp] theorem State.dropDescriptor_txLen : (s.dropDescriptor).txLen = s.txLen := rfl
@[simp] theorem State.dropDescriptor_txIdx : (s.dropDescriptor).txIdx = s.txIdx := rfl
@[simp] theorem State.dropDescriptor_txBuf : (s.dropDescriptor).txBuf = s.txBuf := rfl
@[simp] theorem State.dropDescriptor_txErr : (s.dropDescriptor).txErr = s.txErr := rfl
@[simp] theorem State.dropDescriptor_inbound : (s.dropDescriptor).inbound = s.inbound := rfl
@[simp] theorem State.dropDescriptor_outbound : (s.dropDescriptor).outbound = s.outbound := rfl
@[simp] theorem State.dropDescriptor_rxOut : (s.dropDescriptor).rxOut = s.rxOut := rfl
@[simp] theorem State.dropDescriptor_descriptors : (s.dropDescriptor).descriptors = s.descriptors.tail := rfl
@[simp] theorem State.dropDescriptor_schedule : (s.dropDescriptor).schedule = s.schedule := rfl
@[simp] theorem State.dropDescriptor_resetDone : (s.dropDescriptor).resetDone = s.resetDone := rfl

@[simp] theorem State.raiseRx_rxState (e : ErrCode) (info : Octet) : (s.raiseRx e info).rxState = .err := rfl
@[simp] theorem State.raiseRx_rxLen (e : ErrCode) (info : Octet) : (s.raiseRx e info).rxLen = s.rxLen := rfl
@[simp] theorem State.raiseRx_rxCnt (e : ErrCode) (info : Octet) : (s.raiseRx e info).rxCnt = s.rxCnt := rfl
@[simp] theorem State.raiseRx_rxBuf (e : ErrCode) (info : Octet) : (s.raiseRx e info).rxBuf = s.rxBuf := rfl
@[simp] theorem State.raiseRx_rxErr (e : ErrCode) (info : Octet) : (s.raiseRx e info).rxErr = e := rfl
@[simp] theorem State.raiseRx_rxErrInfo (e : ErrCode) (info : Octet) : (s.raiseRx e info).rxErrInfo = info := rfl
@[simp] theorem State.raiseRx_txState (e : ErrCode) (info : Octet) : (s.raiseRx e info).txState = s.txState := rfl
@[simp] theorem State.raiseRx_txLen (e : ErrCode) (info : Octet) : (s.raiseRx e info).txLen = s.txLen := rfl
@[simp] theorem State.raiseRx_txIdx (e : ErrCode) (info : Octet) : (s.raiseRx e info).txIdx = s.txIdx := rfl
@[simp] theorem State.raiseRx_txBuf (e : ErrCode) (info : Octet) : (s.raiseRx e info).txBuf = s.txBuf := rfl
@[simp] theorem State.raiseRx_txErr (e : ErrCode) (info : Octet) : (s.raiseRx e info).txErr = s.txErr := rfl
@[simp] theorem State.raiseRx_inbound (e : ErrCode) (info : Octet) : (s.raiseRx e info).inbound = s.inbound := rfl
@[simp] theorem State.raiseRx_outbound (e : ErrCode) (info : Octet) : (s.raiseRx e info).outbound = s.outbound := rfl
@[simp] theorem State.raiseRx_rxOut (e : ErrCode) (info : Octet) : (s.raiseRx e info).rxOut = s.rxOut ++ [.error e info] := rfl
@[simp] theorem State.raiseRx_descriptors (e : ErrCode) (info : Octet) : (s.raiseRx e info).descriptors = s.descriptors := rfl
@[simp] theorem State.raiseRx_schedule (e : ErrCode) (info : Octet) : (s.raiseRx e info).schedule = s.schedule := rfl
@[simp] theorem State.raiseRx_resetDone (e : ErrCode) (info : Octet) : (s.raiseRx e info).resetDone = s.resetDone := rfl

@[simp] theorem State.raiseTx_rxState (e : ErrCode) : (s.raiseTx e).rxState = s.rxState := rfl
@[simp] theorem State.raiseTx_rxLen (e : ErrCode) : (s.raiseTx e).rxLen = s.rxLen := rfl
@[simp] theorem State.raiseTx_rxCnt (e : ErrCode) : (s.raiseTx e).rxCnt = s.rxCnt := rfl
@[simp] theorem State.raiseTx_rxBuf (e : ErrCode) : (s.raiseTx e).rxBuf = s.rxBuf := rfl
@[simp] theorem State.raiseTx_rxErr (e : ErrCode) : (s.raiseTx e).rxErr = s.rxErr := rfl
@[simp] theorem State.raiseTx_rxErrInfo (e : ErrCode) : (s.raiseTx e).rxErrInfo = s.rxErrInfo := rfl
@[simp] theorem State.raiseTx_txState (e : ErrCode) : (s.raiseTx e).txState = .err := rfl
@[simp] theorem State.raiseTx_txLen (e : ErrCode) : (s.raiseTx e).txLen = s.txLen := rfl
@[simp] theorem State.raiseTx_txIdx (e : ErrCode) : (s.raiseTx e).txIdx = s.txIdx := rfl
@[simp] theorem State.raiseTx_txBuf (e : ErrCode) : (s.raiseTx e).txBuf = s.txBuf := rfl
@[simp] theorem State.raiseTx_txErr (e : ErrCode) : (s.raiseTx e).txErr = e := rfl
@[simp] theorem State.raiseTx_inbound (e : ErrCode) : (s.raiseTx e).inbound = s.inbound := rfl
@[simp] theorem State.raiseTx_outbound (e : ErrCode) : (s.raiseTx e).outbound = s.outbound := rfl
@[simp] theorem State.raiseTx_rxOut (e : ErrCode) : (s.raiseTx e).rxOut = s.rxOut := rfl
@[simp] theorem State.raiseTx_descriptors (e : ErrCode) : (s.raiseTx e).descriptors = s.descriptors := rfl
@[simp] theorem State.raiseTx_schedule (e : ErrCode) : (s.raiseTx e).schedule = s.schedule := rfl
@[simp] theorem State.raiseTx_resetDone (e : ErrCode) : (s.raiseTx e).resetDone = s.resetDone := rfl

@[simp] theorem State.resetBlock_rxState : (s.resetBlock).rxState = .start := rfl
@[simp] theorem State.resetBlock_rxLen : (s.resetBlock).rxLen = 0#8 := rfl
@[simp] theorem State.resetBlock_rxCnt : (s.resetBlock).rxCnt = 0#8 := rfl
@[simp] theorem State.resetBlock_rxBuf : (s.resetBlock).rxBuf = s.rxBuf := rfl
@[simp] theorem State.resetBlock_rxErr : (s.resetBlock).rxErr = .none := rfl
@[simp] theorem State.resetBlock_rxErrInfo : (s.resetBlock).rxErrInfo = 0#8 := rfl
@[simp] theorem State.resetBlock_txState : (s.resetBlock).txState = .idle := rfl
@[simp] theorem State.resetBlock_txLen : (s.resetBlock).txLen = 0#8 := rfl
@[simp] theorem State.resetBlock_txIdx : (s.resetBlock).txIdx = 0#8 := rfl
@[simp] theorem State.resetBlock_txBuf : (s.resetBlock).txBuf = s.txBuf := rfl
@[simp] theorem State.resetBlock_txErr : (s.resetBlock).txErr = .none := rfl
@[simp] theorem State.resetBlock_inbound : (s.resetBlock).inbound = s.inbound := rfl
@[simp] theorem State.resetBlock_outbound : (s.resetBlock).outbound = s.outbound := rfl
@[simp] theorem State.resetBlock_rxOut : (s.resetBlock).rxOut = s.rxOut := rfl
@[simp] theorem State.resetBlock_descriptors : (s.resetBlock).descriptors = s.descriptors := rfl
@[simp] theorem State.resetBlock_schedule : (s.resetBlock).schedule = s.schedule := rfl
@[simp] theorem State.resetBlock_resetDone : (s.resetBlock).resetDone = true := rfl

@[simp] theorem State.toRxLen_rxState : (s.toRxLen).rxState = .len := rfl
@[simp] theorem State.toRxLen_rxLen : (s.toRxLen).rxLen = s.rxLen := rfl
@[simp] theorem State.toRxLen_rxCnt : (s.toRxLen).rxCnt = s.rxCnt := rfl
@[simp] theorem State.toRxLen_rxBuf : (s.toRxLen).rxBuf = s.rxBuf := rfl
@[simp] theorem State.toRxLen_rxErr : (s.toRxLen).rxErr = s.rxErr := rfl
@[simp] theorem State.toRxLen_rxErrInfo : (s.toRxLen).rxErrInfo = s.rxErrInfo := rfl
@[simp] theorem State.toRxLen_txState : (s.toRxLen).txState = s.txState := rfl
@[simp] theorem State.toRxLen_txLen : (s.toRxLen).txLen = s.txLen := rfl
@[simp] theorem State.toRxLen_txIdx : (s.toRxLen).txIdx = s.txIdx := rfl
@[simp] theorem State.toRxLen_txBuf : (s.toRxLen).txBuf = s.txBuf := rfl
@[simp] theorem State.toRxLen_txErr : (s.toRxLen).txErr = s.txErr := rfl
@[simp] theorem State.toRxLen_inbound : (s.toRxLen).inbound = s.inbound := rfl
@[simp] theorem State.toRxLen_outbound : (s.toRxLen).outbound = s.outbound := rfl
@[simp] theorem State.toRxLen_rxOut : (s.toRxLen).rxOut = s.rxOut := rfl
@[simp] theorem State.toRxLen_descriptors : (s.toRxLen).descriptors = s.descriptors := rfl
@[simp] theorem State.toRxLen_schedule : (s.toRxLen).schedule = s.schedule := rfl
@[simp] theorem State.toRxLen_resetDone : (s.toRxLen).resetDone = s.resetDone := rfl

@[simp] theorem State.beginBody_rxState (b : Octet) : (s.beginBody b).rxState = .body := rfl
@[simp] theorem State.beginBody_rxLen (b : Octet) : (s.beginBody b).rxLen = b := rfl
@[simp] theorem State.beginBody_rxCnt (b : Octet) : (s.beginBody b).rxCnt = 0#8 := rfl
@[simp] theorem State.beginBody_rxBuf (b : Octet) : (s.beginBody b).rxBuf = s.rxBuf := rfl
@[simp] theorem State.beginBody_rxErr (b : Octet) : (s.beginBody b).rxErr = s.rxErr := rfl
@[simp] theorem State.beginBody_rxErrInfo (b : Octet) : (s.beginBody b).rxErrInfo = s.rxErrInfo := rfl
@[simp] theorem State.beginBody_txState (b : Octet) : (s.beginBody b).txState = s.txState := rfl
@[simp] theorem State.beginBody_txLen (b : Octet) : (s.beginBody b).txLen = s.txLen := rfl
@[simp] theorem State.beginBody_txIdx (b : Octet) : (s.beginBody b).txIdx = s.txIdx := rfl
@[simp] theorem State.beginBody_txBuf (b : Octet) : (s.beginBody b).txBuf = s.txBuf := rfl
@[simp] theorem State.beginBody_txErr (b : Octet) : (s.beginBody b).txErr = s.txErr := rfl
@[simp] theorem State.beginBody_inbound (b : Octet) : (s.beginBody b).inbound = s.inbound := rfl
@[simp] theorem State.beginBody_outbound (b : Octet) : (s.beginBody b).outbound = s.outbound := rfl
@[simp] theorem State.beginBody_rxOut (b : Octet) : (s.beginBody b).rxOut = s.rxOut := rfl
@[simp] theorem State.beginBody_descriptors (b : Octet) : (s.beginBody b).descriptors = s.descriptors := rfl
@[simp] theorem State.beginBody_schedule (b : Octet) : (s.beginBody b).schedule = s.schedule := rfl
@[simp] theorem State.beginBody_resetDone (b : Octet) : (s.beginBody b).resetDone = s.resetDone := rfl

@[simp] theorem State.storeRx_rxState (b : Octet) : (s.storeRx b).rxState = s.rxState := rfl
@[simp] theorem State.storeRx_rxLen (b : Octet) : (s.storeRx b).rxLen = s.rxLen := rfl
@[simp] theorem State.storeRx_rxCnt (b : Octet) : (s.storeRx b).rxCnt = s.rxCnt + 1#8 := rfl
@[simp] theorem State.storeRx_rxBuf (b : Octet) : (s.storeRx b).rxBuf = s.rxBuf.write s.rxCnt.toNat b := rfl
@[simp] theorem State.storeRx_rxErr (b : Octet) : (s.storeRx b).rxErr = s.rxErr := rfl
@[simp] theorem State.storeRx_rxErrInfo (b : Octet) : (s.storeRx b).rxErrInfo = s.rxErrInfo := rfl
@[simp] theorem State.storeRx_txState (b : Octet) : (s.storeRx b).txState = s.txState := rfl
@[simp] theorem State.storeRx_txLen (b : Octet) : (s.storeRx b).txLen = s.txLen := rfl
@[simp] theorem State.storeRx_txIdx (b : Octet) : (s.storeRx b).txIdx = s.txIdx := rfl
@[simp] theorem State.storeRx_txBuf (b : Octet) : (s.storeRx b).txBuf = s.txBuf := rfl
@[simp] theorem State.storeRx_txErr (b : Octet) : (s.storeRx b).txErr = s.txErr := rfl
@[simp] theorem State.storeRx_inbound (b : Octet) : (s.storeRx b).inbound = s.inbound := rfl
@[simp] theorem State.storeRx_outbound (b : Octet) : (s.storeRx b).outbound = s.outbound := rfl
@[simp] theorem State.storeRx_rxOut (b : Octet) : (s.storeRx b).rxOut = s.rxOut := rfl
@[simp] theorem State.storeRx_descriptors (b : Octet) : (s.storeRx b).descriptors = s.descriptors := rfl
@[simp] theorem State.storeRx_schedule (b : Octet) : (s.storeRx b).schedule = s.schedule := rfl
@[simp] theorem State.storeRx_resetDone (b : Octet) : (s.storeRx b).resetDone = s.resetDone := rfl

@[simp] theorem State.deliver_rxState (f : Instr) : (s.deliver f).rxState = .hold := rfl
@[simp] theorem State.deliver_rxLen (f : Instr) : (s.deliver f).rxLen = s.rxLen := rfl
@[simp] theorem State.deliver_rxCnt (f : Instr) : (s.deliver f).rxCnt = s.rxCnt := rfl
@[simp] theorem State.deliver_rxBuf (f : Instr) : (s.deliver f).rxBuf = s.rxBuf := rfl
@[simp] theorem State.deliver_rxErr (f : Instr) : (s.deliver f).rxErr = s.rxErr := rfl
@[simp] theorem State.deliver_rxErrInfo (f : Instr) : (s.deliver f).rxErrInfo = s.rxErrInfo := rfl
@[simp] theorem State.deliver_txState (f : Instr) : (s.deliver f).txState = s.txState := rfl
@[simp] theorem State.deliver_txLen (f : Instr) : (s.deliver f).txLen = s.txLen := rfl
@[simp] theorem State.deliver_txIdx (f : Instr) : (s.deliver f).txIdx = s.txIdx := rfl
@[simp] theorem State.deliver_txBuf (f : Instr) : (s.deliver f).txBuf = s.txBuf := rfl
@[simp] theorem State.deliver_txErr (f : Instr) : (s.deliver f).txErr = s.txErr := rfl
@[simp] theorem State.deliver_inbound (f : Instr) : (s.deliver f).inbound = s.inbound := rfl
@[simp] theorem State.deliver_outbound (f : Instr) : (s.deliver f).outbound = s.outbound := rfl
@[simp] theorem State.deliver_rxOut (f : Instr) : (s.deliver f).rxOut = s.rxOut ++ [.frame f] := rfl
@[simp] theorem State.deliver_descriptors (f : Instr) : (s.deliver f).descriptors = s.descriptors := rfl
@[simp] theorem State.deliver_schedule (f : Instr) : (s.deliver f).schedule = s.schedule := rfl
@[simp] theorem State.deliver_resetDone (f : Instr) : (s.deliver f).resetDone = s.resetDone := rfl

@[simp] theorem State.take_rxState (f : Instr) : (s.take f).rxState = .start := rfl
@[simp] theorem State.take_rxLen (f : Instr) : (s.take f).rxLen = s.rxLen := rfl
@[simp] theorem State.take_rxCnt (f : Instr) : (s.take f).rxCnt = s.rxCnt := rfl
@[simp] theorem State.take_rxBuf (f : Instr) : (s.take f).rxBuf = s.rxBuf := rfl
@[simp] theorem State.take_rxErr (f : Instr) : (s.take f).rxErr = s.rxErr := rfl
@[simp] theorem State.take_rxErrInfo (f : Instr) : (s.take f).rxErrInfo = s.rxErrInfo := rfl
@[simp] theorem State.take_txState (f : Instr) : (s.take f).txState = s.txState := rfl
@[simp] theorem State.take_txLen (f : Instr) : (s.take f).txLen = s.txLen := rfl
@[simp] theorem State.take_txIdx (f : Instr) : (s.take f).txIdx = s.txIdx := rfl
@[simp] theorem State.take_txBuf (f : Instr) : (s.take f).txBuf = s.txBuf := rfl
@[simp] theorem State.take_txErr (f : Instr) : (s.take f).txErr = s.txErr := rfl
@[simp] theorem State.take_inbound (f : Instr) : (s.take f).inbound = s.inbound := rfl
@[simp] theorem State.take_outbound (f : Instr) : (s.take f).outbound = s.outbound := rfl
@[simp] theorem State.take_rxOut (f : Instr) : (s.take f).rxOut = s.rxOut ++ [.taken f] := rfl
@[simp] theorem State.take_descriptors (f : Instr) : (s.take f).descriptors = s.descriptors := rfl
@[simp] theorem State.take_schedule (f : Instr) : (s.take f).schedule = s.schedule := rfl
@[simp] theorem State.take_resetDone (f : Instr) : (s.take f).resetDone = s.resetDone := rfl

@[simp] theorem State.loadTx_rxState (e : List Octet) : (s.loadTx e).rxState = s.rxState := rfl
@[simp] theorem State.loadTx_rxLen (e : List Octet) : (s.loadTx e).rxLen = s.rxLen := rfl
@[simp] theorem State.loadTx_rxCnt (e : List Octet) : (s.loadTx e).rxCnt = s.rxCnt := rfl
@[simp] theorem State.loadTx_rxBuf (e : List Octet) : (s.loadTx e).rxBuf = s.rxBuf := rfl
@[simp] theorem State.loadTx_rxErr (e : List Octet) : (s.loadTx e).rxErr = s.rxErr := rfl
@[simp] theorem State.loadTx_rxErrInfo (e : List Octet) : (s.loadTx e).rxErrInfo = s.rxErrInfo := rfl
@[simp] theorem State.loadTx_txState (e : List Octet) : (s.loadTx e).txState = .send := rfl
@[simp] theorem State.loadTx_txLen (e : List Octet) : (s.loadTx e).txLen = BitVec.ofNat 8 e.length := rfl
@[simp] theorem State.loadTx_txIdx (e : List Octet) : (s.loadTx e).txIdx = 0#8 := rfl
@[simp] theorem State.loadTx_txBuf (e : List Octet) : (s.loadTx e).txBuf = s.txBuf.writeAll 0 e := rfl
@[simp] theorem State.loadTx_txErr (e : List Octet) : (s.loadTx e).txErr = s.txErr := rfl
@[simp] theorem State.loadTx_inbound (e : List Octet) : (s.loadTx e).inbound = s.inbound := rfl
@[simp] theorem State.loadTx_outbound (e : List Octet) : (s.loadTx e).outbound = s.outbound := rfl
@[simp] theorem State.loadTx_rxOut (e : List Octet) : (s.loadTx e).rxOut = s.rxOut := rfl
@[simp] theorem State.loadTx_descriptors (e : List Octet) : (s.loadTx e).descriptors = s.descriptors := rfl
@[simp] theorem State.loadTx_schedule (e : List Octet) : (s.loadTx e).schedule = s.schedule := rfl
@[simp] theorem State.loadTx_resetDone (e : List Octet) : (s.loadTx e).resetDone = s.resetDone := rfl

@[simp] theorem State.emit_rxState (b : Octet) : (s.emit b).rxState = s.rxState := rfl
@[simp] theorem State.emit_rxLen (b : Octet) : (s.emit b).rxLen = s.rxLen := rfl
@[simp] theorem State.emit_rxCnt (b : Octet) : (s.emit b).rxCnt = s.rxCnt := rfl
@[simp] theorem State.emit_rxBuf (b : Octet) : (s.emit b).rxBuf = s.rxBuf := rfl
@[simp] theorem State.emit_rxErr (b : Octet) : (s.emit b).rxErr = s.rxErr := rfl
@[simp] theorem State.emit_rxErrInfo (b : Octet) : (s.emit b).rxErrInfo = s.rxErrInfo := rfl
@[simp] theorem State.emit_txState (b : Octet) : (s.emit b).txState = s.txState := rfl
@[simp] theorem State.emit_txLen (b : Octet) : (s.emit b).txLen = s.txLen := rfl
@[simp] theorem State.emit_txIdx (b : Octet) : (s.emit b).txIdx = s.txIdx := rfl
@[simp] theorem State.emit_txBuf (b : Octet) : (s.emit b).txBuf = s.txBuf := rfl
@[simp] theorem State.emit_txErr (b : Octet) : (s.emit b).txErr = s.txErr := rfl
@[simp] theorem State.emit_inbound (b : Octet) : (s.emit b).inbound = s.inbound := rfl
@[simp] theorem State.emit_outbound (b : Octet) : (s.emit b).outbound = s.outbound ++ [b] := rfl
@[simp] theorem State.emit_rxOut (b : Octet) : (s.emit b).rxOut = s.rxOut := rfl
@[simp] theorem State.emit_descriptors (b : Octet) : (s.emit b).descriptors = s.descriptors := rfl
@[simp] theorem State.emit_schedule (b : Octet) : (s.emit b).schedule = s.schedule := rfl
@[simp] theorem State.emit_resetDone (b : Octet) : (s.emit b).resetDone = s.resetDone := rfl

@[simp] theorem State.finishTx_rxState : (s.finishTx).rxState = s.rxState := rfl
@[simp] theorem State.finishTx_rxLen : (s.finishTx).rxLen = s.rxLen := rfl
@[simp] theorem State.finishTx_rxCnt : (s.finishTx).rxCnt = s.rxCnt := rfl
@[simp] theorem State.finishTx_rxBuf : (s.finishTx).rxBuf = s.rxBuf := rfl
@[simp] theorem State.finishTx_rxErr : (s.finishTx).rxErr = s.rxErr := rfl
@[simp] theorem State.finishTx_rxErrInfo : (s.finishTx).rxErrInfo = s.rxErrInfo := rfl
@[simp] theorem State.finishTx_txState : (s.finishTx).txState = .idle := rfl
@[simp] theorem State.finishTx_txLen : (s.finishTx).txLen = s.txLen := rfl
@[simp] theorem State.finishTx_txIdx : (s.finishTx).txIdx = 0#8 := rfl
@[simp] theorem State.finishTx_txBuf : (s.finishTx).txBuf = s.txBuf := rfl
@[simp] theorem State.finishTx_txErr : (s.finishTx).txErr = s.txErr := rfl
@[simp] theorem State.finishTx_inbound : (s.finishTx).inbound = s.inbound := rfl
@[simp] theorem State.finishTx_outbound : (s.finishTx).outbound = s.outbound := rfl
@[simp] theorem State.finishTx_rxOut : (s.finishTx).rxOut = s.rxOut := rfl
@[simp] theorem State.finishTx_descriptors : (s.finishTx).descriptors = s.descriptors := rfl
@[simp] theorem State.finishTx_schedule : (s.finishTx).schedule = s.schedule := rfl
@[simp] theorem State.finishTx_resetDone : (s.finishTx).resetDone = s.resetDone := rfl

@[simp] theorem State.advanceTx_rxState : (s.advanceTx).rxState = s.rxState := rfl
@[simp] theorem State.advanceTx_rxLen : (s.advanceTx).rxLen = s.rxLen := rfl
@[simp] theorem State.advanceTx_rxCnt : (s.advanceTx).rxCnt = s.rxCnt := rfl
@[simp] theorem State.advanceTx_rxBuf : (s.advanceTx).rxBuf = s.rxBuf := rfl
@[simp] theorem State.advanceTx_rxErr : (s.advanceTx).rxErr = s.rxErr := rfl
@[simp] theorem State.advanceTx_rxErrInfo : (s.advanceTx).rxErrInfo = s.rxErrInfo := rfl
@[simp] theorem State.advanceTx_txState : (s.advanceTx).txState = s.txState := rfl
@[simp] theorem State.advanceTx_txLen : (s.advanceTx).txLen = s.txLen := rfl
@[simp] theorem State.advanceTx_txIdx : (s.advanceTx).txIdx = s.txIdx + 1#8 := rfl
@[simp] theorem State.advanceTx_txBuf : (s.advanceTx).txBuf = s.txBuf := rfl
@[simp] theorem State.advanceTx_txErr : (s.advanceTx).txErr = s.txErr := rfl
@[simp] theorem State.advanceTx_inbound : (s.advanceTx).inbound = s.inbound := rfl
@[simp] theorem State.advanceTx_outbound : (s.advanceTx).outbound = s.outbound := rfl
@[simp] theorem State.advanceTx_rxOut : (s.advanceTx).rxOut = s.rxOut := rfl
@[simp] theorem State.advanceTx_descriptors : (s.advanceTx).descriptors = s.descriptors := rfl
@[simp] theorem State.advanceTx_schedule : (s.advanceTx).schedule = s.schedule := rfl
@[simp] theorem State.advanceTx_resetDone : (s.advanceTx).resetDone = s.resetDone := rfl

end Sys2Proof.Machine
end

