-- ==== Sys2Proof/Laws/Frames.lean ====
section
/-! SUPPORT. The shared operations of a frame: which half it runs on and everything it can do there; descriptors and the frames
they denote. -/

namespace Sys2Proof.Machine

/-! ## The body of a frame -/

/-- `classify(encode(f)[2..])` = `Ok f` on bodies (R147), for every kind. -/
theorem decodeBody_encodeBody {f : Instr} (h : f.wf = true) : decodeBody (encodeBody f) = some (.ok f) := by
  cases f with
  | i ns nr asdu => exact Laws.BodyRoundTrip.i ns nr asdu h
  | s nr => exact Laws.BodyRoundTrip.s nr h
  | startdtAct => exact Laws.BodyRoundTrip.startdtAct h
  | startdtCon => exact Laws.BodyRoundTrip.startdtCon h
  | stopdtAct => exact Laws.BodyRoundTrip.stopdtAct h
  | stopdtCon => exact Laws.BodyRoundTrip.stopdtCon h
  | testfrAct => exact Laws.BodyRoundTrip.testfrAct h
  | testfrCon => exact Laws.BodyRoundTrip.testfrCon h

/-! ## Which half -/

/-- Every arm of `exec` is the shared operation. -/
theorem exec_eq_runFrame (f : Instr) (s : State) : exec f s = runFrame f s := by
  cases f <;> rfl

theorem side_rxByte {s : State} {rest : List EventKind} (h : s.schedule = .rxByte :: rest) : s.side = some .rx := by
  simp [State.side, h]

theorem side_txFrame {s : State} {rest : List EventKind} (h : s.schedule = .txFrame :: rest) : s.side = some .tx := by
  simp [State.side, h]

theorem exec_rx {s : State} {rest : List EventKind} (f : Instr) (h : s.schedule = .rxByte :: rest) :
    exec f s = receiveFrame f s := by
  simp [exec_eq_runFrame, runFrame, side_rxByte h]

theorem exec_tx {s : State} {rest : List EventKind} (f : Instr) (h : s.schedule = .txFrame :: rest) :
    exec f s = sendFrame f s := by
  simp [exec_eq_runFrame, runFrame, side_txFrame h]

/-! ## A frame on RX -/

/-- A frame at the last octet of the body being collected is held and put out (R104). -/
theorem receiveFrame_lastOctet {s : State} {f : Instr} {b : Octet} {rest : List Octet}
    (hin : s.inbound = b :: rest) (hst : s.rxState = .body) (hcnt : s.rxCnt.toNat + 1 = s.rxLen.toNat)
    (hlt : s.rxCnt.toNat < 253) :
    receiveFrame f s = .next ((s.storeRx b).deliver f).consume.retire := by
  have h : s.rxCnt.toNat + 1 = s.rxLen.toNat ∧ s.rxCnt.toNat < Config.rxbSize := ⟨hcnt, hlt⟩
  simp only [receiveFrame, hin, completeRx, hst]
  rw [if_pos h]

/-- Everything a frame on RX can do when it answers a next state. -/
theorem receiveFrame_next {s t : State} {f : Instr} (h : receiveFrame f s = .next t) :
    ((s.inbound = [] ∨ s.rxState = .hold) ∧ t = s.retire) ∨
    (s.rxState = .err ∧ t = s.consume.retire) ∨
    ∃ b rest, s.inbound = b :: rest ∧ s.rxState = .body ∧ s.rxCnt.toNat + 1 = s.rxLen.toNat ∧
      s.rxCnt.toNat < 253 ∧ t = ((s.storeRx b).deliver f).consume.retire := by
  unfold receiveFrame at h
  split at h
  · rename_i hin
    exact .inl ⟨.inl hin, by cases h; rfl⟩
  · rename_i b rest hin
    unfold completeRx at h
    split at h
    · rename_i hst
      exact .inl ⟨.inr hst, by cases h; rfl⟩
    · rename_i hst
      exact .inr (.inl ⟨hst, by cases h; rfl⟩)
    · cases h
    · cases h
    · rename_i hst
      split at h
      · rename_i hc
        exact .inr (.inr ⟨b, rest, hin, hst, hc.1, hc.2, by cases h; rfl⟩)
      · cases h

/-! ## A frame on TX -/

/-- Everything a frame on TX does: it always answers a next state. -/
theorem sendFrame_cases (f : Instr) (s : State) :
    ((s.descriptors = [] ∨ s.txState = .send) ∧ sendFrame f s = .next s.retire) ∨
    (s.descriptors ≠ [] ∧ s.txState = .err ∧ sendFrame f s = .next s.dropDescriptor.retire) ∨
    (s.descriptors ≠ [] ∧ s.txState = .idle ∧ f.wf = true ∧
      sendFrame f s = .next (s.loadTx (encode f)).dropDescriptor.retire) ∨
    (s.descriptors ≠ [] ∧ s.txState = .idle ∧ f.wf = false ∧
      sendFrame f s = .next (s.raiseTx .frameTooLarge).dropDescriptor.retire) := by
  cases hd : s.descriptors with
  | nil => exact .inl ⟨.inl rfl, by simp [sendFrame, hd]⟩
  | cons d ds =>
    cases hst : s.txState with
    | send => exact .inl ⟨.inr rfl, by simp [sendFrame, hd, acceptTx, hst]⟩
    | err => exact .inr (.inl ⟨by simp, rfl, by simp [sendFrame, hd, acceptTx, hst]⟩)
    | idle =>
      cases hw : f.wf with
      | true => exact .inr (.inr (.inl ⟨by simp, rfl, rfl, by simp [sendFrame, hd, acceptTx, hst, hw]⟩))
      | false => exact .inr (.inr (.inr ⟨by simp, rfl, rfl, by simp [sendFrame, hd, acceptTx, hst, hw]⟩))

/-! ## Descriptors -/

theorem asduOctets_length (d : Descriptor) : d.asduOctets.length = d.asduLen.toNat := by
  have := d.asduLen.isLt
  simp [Descriptor.asduOctets]
  omega

theorem ufuncFrame_wf {c : BitVec 3} {f : Instr} (h : ufuncFrame c = some f) : f.wf = true := by
  unfold ufuncFrame at h
  repeat' split at h
  all_goals first
    | (cases h; rfl)
    | cases h

/-- A descriptor denotes only well-formed frame values (R145). -/
theorem denote_wf {d : Descriptor} {f : Instr} (h : d.denote = some f) : f.wf = true := by
  unfold Descriptor.denote at h
  split at h
  · split at h
    · rename_i hl
      cases h
      rw [wf_iff]
      simpa [Instr.asdu, asduOctets_length, Config.maxAsdu] using hl
    · cases h
  · split at h
    · cases h
      rfl
    · split at h
      · exact ufuncFrame_wf h
      · cases h

/-! ## The held frame -/

theorem heldFrame_eq_some_iff (s : State) (f : Instr) :
    s.heldFrame = some f ↔ s.rxState = .hold ∧ ∃ body, s.rxBody = some body ∧ decodeBody body = some (.ok f) := by
  unfold State.heldFrame
  split
  · rename_i g hst hb
    obtain ⟨body, hb1, hb2⟩ := Option.bind_eq_some_iff.1 hb
    constructor
    · intro h
      exact ⟨hst, body, hb1, by rw [hb2, Option.some.inj h]⟩
    · rintro ⟨_, body', h1, h2⟩
      rw [hb1] at h1
      cases h1
      rw [hb2] at h2
      cases h2
      rfl
  · rename_i hno
    constructor
    · intro h
      cases h
    · rintro ⟨hst, body, h1, h2⟩
      exact absurd (by simp [h1, h2]) (hno f hst)

theorem heldFrame_wf {s : State} {f : Instr} (h : s.heldFrame = some f) : f.wf = true := by
  obtain ⟨_, _, _, hd⟩ := (heldFrame_eq_some_iff s f).1 h
  exact (decodeBody_eq_ok hd).1

end Sys2Proof.Machine
end

