-- ==== Sys2Proof/Laws/Memory.lean ====
section
/-! SUPPORT. The laws of the buffers: a read after a write, ranges of cells, and the canonical form every write keeps. -/

namespace Sys2Proof.Machine

/-! ## One cell -/

theorem Memory.read_write_same (m : Memory) (a : Nat) (b : Octet) : (m.write a b).read a = some b := by
  induction m with
  | nil => simp [Memory.write, Memory.read]
  | cons c m ih =>
    obtain ⟨k, v⟩ := c
    simp only [Memory.write]
    split
    · simp [Memory.read]
    · split
      · simp [Memory.read]
      · rename_i h
        simp [Memory.read, h, ih]

theorem Memory.read_write_other (m : Memory) {a k : Nat} (b : Octet) (h : k ≠ a) :
    (m.write a b).read k = m.read k := by
  induction m with
  | nil => simp [Memory.write, Memory.read, Ne.symm h]
  | cons c m ih =>
    obtain ⟨j, v⟩ := c
    simp only [Memory.write]
    split
    · simp [Memory.read, Ne.symm h]
    · split
      · rename_i h1 h2
        subst h2
        simp [Memory.read, Ne.symm h]
      · simp [Memory.read, ih]

theorem Memory.read_write (m : Memory) (a k : Nat) (b : Octet) :
    (m.write a b).read k = if k = a then some b else m.read k := by
  split
  · subst k
    exact m.read_write_same a b
  · exact m.read_write_other b ‹_›

/-! ## Consecutive cells -/

theorem Memory.read_writeAll (bs : List Octet) :
    ∀ (m : Memory) (a k : Nat),
      (m.writeAll a bs).read k = if a ≤ k ∧ k < a + bs.length then bs[k - a]? else m.read k := by
  induction bs with
  | nil =>
    intro m a k
    have : ¬(a ≤ k ∧ k < a + ([] : List Octet).length) := by simp
    rw [if_neg this, Memory.writeAll]
  | cons b bs ih =>
    intro m a k
    rw [Memory.writeAll, ih, Memory.read_write]
    simp only [List.length_cons]
    by_cases h1 : a + 1 ≤ k ∧ k < a + 1 + bs.length
    · obtain ⟨j, rfl⟩ : ∃ j, k = a + 1 + j := ⟨k - (a + 1), by omega⟩
      have h2 : a ≤ a + 1 + j ∧ a + 1 + j < a + (bs.length + 1) := by omega
      have h3 : a + 1 + j - a = (a + 1 + j - (a + 1)) + 1 := by omega
      rw [if_pos h1, if_pos h2, h3, List.getElem?_cons_succ]
    · rw [if_neg h1]
      by_cases h2 : k = a
      · subst k
        rw [if_pos rfl, if_pos (by omega)]
        simp
      · rw [if_neg h2, if_neg (by omega)]

theorem Memory.readRange_cons {m : Memory} {a n : Nat} {b : Octet} {bs : List Octet}
    (h : m.read a = some b) (hs : m.readRange (a + 1) n = some bs) :
    m.readRange a (n + 1) = some (b :: bs) := by
  simp [Memory.readRange, h, hs]

theorem Memory.readRange_succ {m : Memory} {a n : Nat} {l : List Octet}
    (h : m.readRange a (n + 1) = some l) :
    ∃ b bs, l = b :: bs ∧ m.read a = some b ∧ m.readRange (a + 1) n = some bs := by
  rw [Memory.readRange] at h
  cases hb : m.read a with
  | none => simp [hb] at h
  | some b =>
    cases hs : m.readRange (a + 1) n with
    | none => simp [hb, hs] at h
    | some bs =>
      simp [hb, hs] at h
      exact ⟨b, bs, h.symm, rfl, rfl⟩

/-- What a range holds: its length, and cell by cell. -/
theorem Memory.readRange_eq_some_iff {m : Memory} :
    ∀ {n a : Nat} {l : List Octet},
      m.readRange a n = some l ↔ l.length = n ∧ ∀ j, j < n → m.read (a + j) = l[j]? := by
  intro n
  induction n with
  | zero =>
    intro a l
    simp [Memory.readRange, eq_comm (a := ([] : List Octet))]
  | succ n ih =>
    intro a l
    constructor
    · intro h
      obtain ⟨b, bs, rfl, hb, hs⟩ := Memory.readRange_succ h
      obtain ⟨hl, hc⟩ := ih.1 hs
      refine ⟨by simp [hl], ?_⟩
      intro j hj
      cases j with
      | zero => simpa using hb
      | succ j =>
        have := hc j (by omega)
        rw [List.getElem?_cons_succ, ← this]
        congr 1
        omega
    · rintro ⟨hl, hc⟩
      cases l with
      | nil => simp at hl
      | cons b bs =>
        refine Memory.readRange_cons (by simpa using hc 0 (by omega)) (ih.2 ⟨by simpa using hl, ?_⟩)
        intro j hj
        have := hc (j + 1) (by omega)
        rw [List.getElem?_cons_succ] at this
        rw [← this]
        congr 1
        omega

theorem Memory.readRange_length {m : Memory} {a n : Nat} {l : List Octet} (h : m.readRange a n = some l) :
    l.length = n :=
  (Memory.readRange_eq_some_iff.1 h).1

/-- Two buffers that agree on a range hold the same octets there. -/
theorem Memory.readRange_congr {m m' : Memory} {a n : Nat} (h : ∀ j, j < n → m'.read (a + j) = m.read (a + j)) :
    m'.readRange a n = m.readRange a n := by
  cases hm : m.readRange a n with
  | some l =>
    obtain ⟨hl, hc⟩ := Memory.readRange_eq_some_iff.1 hm
    exact Memory.readRange_eq_some_iff.2 ⟨hl, fun j hj => by rw [h j hj, hc j hj]⟩
  | none =>
    cases hm' : m'.readRange a n with
    | none => rfl
    | some l =>
      obtain ⟨hl, hc⟩ := Memory.readRange_eq_some_iff.1 hm'
      have := Memory.readRange_eq_some_iff.2 ⟨hl, fun j hj => by rw [← h j hj, hc j hj]⟩
      simp [hm] at this

/-- A range whose every cell is written holds some octets. -/
theorem Memory.readRange_isSome {m : Memory} :
    ∀ {n a : Nat}, (∀ j, j < n → (m.read (a + j)).isSome = true) → ∃ l, m.readRange a n = some l := by
  intro n
  induction n with
  | zero => exact fun _ => ⟨[], rfl⟩
  | succ n ih =>
    intro a h
    obtain ⟨b, hb⟩ := Option.isSome_iff_exists.1 (h 0 (by omega))
    obtain ⟨l, hl⟩ := ih (a := a + 1) (fun j hj => by
      have := h (j + 1) (by omega)
      rwa [show a + (j + 1) = a + 1 + j by omega] at this)
    exact ⟨b :: l, Memory.readRange_cons (by simpa using hb) hl⟩

/-- One more cell at the end of a range, when it is the cell just written. -/
theorem Memory.readRange_write_end {m : Memory} {a n : Nat} {l : List Octet} (b : Octet)
    (h : m.readRange a n = some l) : (m.write (a + n) b).readRange a (n + 1) = some (l ++ [b]) := by
  obtain ⟨hl, hc⟩ := Memory.readRange_eq_some_iff.1 h
  refine Memory.readRange_eq_some_iff.2 ⟨by simp [hl], ?_⟩
  intro j hj
  rw [Memory.read_write]
  by_cases hjn : j = n
  · subst j
    simp [← hl]
  · rw [if_neg (by omega), hc j (by omega), List.getElem?_append_left (by omega)]

/-- A range just written holds what was written. -/
theorem Memory.readRange_writeAll (m : Memory) (a : Nat) (bs : List Octet) :
    (m.writeAll a bs).readRange a bs.length = some bs := by
  refine Memory.readRange_eq_some_iff.2 ⟨rfl, ?_⟩
  intro j hj
  rw [Memory.read_writeAll, if_pos (by omega)]
  congr 1
  omega

/-! ## The canonical form -/

theorem Memory.wf_tail {c : Host.Cell} {m : Memory} (h : Memory.wf (c :: m) = true) : Memory.wf m = true := by
  cases m with
  | nil => rfl
  | cons d m =>
    obtain ⟨a, v⟩ := c
    obtain ⟨b, w⟩ := d
    simp [Memory.wf] at h
    exact h.2

theorem Memory.wf_cons {k : Nat} {v : Octet} {m : Memory} (h : ∀ c ∈ m.head?, k < c.1) (hm : Memory.wf m = true) :
    Memory.wf ((k, v) :: m) = true := by
  cases m with
  | nil => rfl
  | cons d m =>
    obtain ⟨b, w⟩ := d
    have : k < b := by simpa using h
    simp [Memory.wf, this, hm]

theorem Memory.head_lt {k : Nat} {v : Octet} {m : Memory} (h : Memory.wf ((k, v) :: m) = true) :
    ∀ c ∈ m.head?, k < c.1 := by
  cases m with
  | nil => simp
  | cons d m =>
    obtain ⟨b, w⟩ := d
    simp [Memory.wf] at h
    simpa using h.1

/-- The first index after a write is the one written or the one that was first. -/
theorem Memory.head_write {m : Memory} {a : Nat} {b : Octet} :
    ∀ c ∈ (m.write a b).head?, c.1 = a ∨ ∃ d ∈ m.head?, c.1 = d.1 := by
  cases m with
  | nil => simp [Memory.write]
  | cons d m =>
    obtain ⟨k, v⟩ := d
    simp only [Memory.write]
    split
    · simp
    · split <;> simp

theorem Memory.wf_write {m : Memory} {a : Nat} {b : Octet} (h : m.wf = true) : (m.write a b).wf = true := by
  induction m with
  | nil => rfl
  | cons c m ih =>
    obtain ⟨k, v⟩ := c
    simp only [Memory.write]
    split
    · exact Memory.wf_cons (by simpa) h
    · split
      · rename_i hk
        subst hk
        exact Memory.wf_cons (Memory.head_lt h) (Memory.wf_tail h)
      · refine Memory.wf_cons ?_ (ih (Memory.wf_tail h))
        intro c hc
        rcases Memory.head_write c hc with h1 | ⟨d, hd, h1⟩
        · omega
        · have := Memory.head_lt h d hd
          omega

theorem Memory.within_write {m : Memory} {size a : Nat} {b : Octet} (h : m.within size = true) (ha : a < size) :
    (m.write a b).within size = true := by
  induction m with
  | nil => simpa [Memory.write, Memory.within] using ha
  | cons c m ih =>
    obtain ⟨k, v⟩ := c
    simp only [Memory.within, List.all_cons, Bool.and_eq_true, decide_eq_true_eq] at h ih ⊢
    simp only [Memory.write]
    split
    · simp [ha, h.1, h.2]
    · split
      · simp [ha, h.2]
      · simp [h.1, ih h.2]

theorem Memory.wf_writeAll (bs : List Octet) : ∀ {m : Memory} {a : Nat}, m.wf = true → (m.writeAll a bs).wf = true := by
  induction bs with
  | nil => exact fun h => h
  | cons b bs ih => exact fun h => ih (Memory.wf_write h)

theorem Memory.within_writeAll (bs : List Octet) :
    ∀ {m : Memory} {size a : Nat}, m.within size = true → a + bs.length ≤ size →
      (m.writeAll a bs).within size = true := by
  induction bs with
  | nil => exact fun h _ => h
  | cons b bs ih =>
    intro m size a h hs
    simp only [List.length_cons] at hs
    exact ih (Memory.within_write h (by omega)) (by omega)

end Sys2Proof.Machine
end

