-- ==== Sys2Proof/Laws/Step.lean ====
section
/-! SUPPORT. Everything a step can do, said once: the transitions of the two halves (R122, R151) with the state each leaves. -/

namespace Sys2Proof.Machine

/-- The states a step can lead to from `s`. -/
inductive Transition (s : State) : State → Prop where
  /-- No event is scheduled. -/
  | idle (h : s.schedule = []) : Transition s s
  /-- `Reset` (R190). -/
  | reset {rest : List EventKind} (h : s.schedule = .reset :: rest) : Transition s s.resetBlock.retire
  /-- `RxByte` with no octet offered, or in `RX_HOLD` (R106). -/
  | rxWaits {rest : List EventKind} (h : s.schedule = .rxByte :: rest) (hr : s.resetDone = true)
      (hw : s.inbound = [] ∨ s.rxState = .hold) : Transition s s.retire
  /-- `RxByte(b)` in `RX_START` (R101). -/
  | rxStart {rest : List EventKind} {b : Octet} {bs : List Octet} (h : s.schedule = .rxByte :: rest)
      (hr : s.resetDone = true) (hin : s.inbound = b :: bs) (hst : s.rxState = .start) :
      Transition s (startOctet b s).consume.retire
  /-- `RxByte(b)` in `RX_LEN` (R102). -/
  | rxLen {rest : List EventKind} {b : Octet} {bs : List Octet} (h : s.schedule = .rxByte :: rest)
      (hr : s.resetDone = true) (hin : s.inbound = b :: bs) (hst : s.rxState = .len) :
      Transition s (lengthOctet b s).consume.retire
  /-- `RxByte(b)` in `RX_BODY` before the last octet (R103). -/
  | rxMore {rest : List EventKind} {b : Octet} {bs : List Octet} (h : s.schedule = .rxByte :: rest)
      (hr : s.resetDone = true) (hin : s.inbound = b :: bs) (hst : s.rxState = .body)
      (hlt : s.rxCnt.toNat < 253) (hc : s.rxCnt.toNat + 1 < s.rxLen.toNat) :
      Transition s (s.storeRx b).consume.retire
  /-- `RxByte(b)` at the last octet of a frame (R104, Ok arm). -/
  | rxFrame {rest : List EventKind} {b : Octet} {bs body : List Octet} {f : Instr}
      (h : s.schedule = .rxByte :: rest) (hr : s.resetDone = true) (hin : s.inbound = b :: bs)
      (hst : s.rxState = .body) (hlt : s.rxCnt.toNat < 253) (hc : s.rxCnt.toNat + 1 = s.rxLen.toNat)
      (hb : (s.storeRx b).rxBody = some body) (hd : decodeBody body = some (.ok f)) :
      Transition s ((s.storeRx b).deliver f).consume.retire
  /-- `RxByte(b)` at the last octet of a malformed frame (R104, Err arm). -/
  | rxMalformed {rest : List EventKind} {b : Octet} {bs body : List Octet} {e : ErrCode} {info : Octet}
      (h : s.schedule = .rxByte :: rest) (hr : s.resetDone = true) (hin : s.inbound = b :: bs)
      (hst : s.rxState = .body) (hlt : s.rxCnt.toNat < 253) (hc : s.rxCnt.toNat + 1 = s.rxLen.toNat)
      (hb : (s.storeRx b).rxBody = some body) (hd : decodeBody body = some (.err e info)) :
      Transition s ((s.storeRx b).raiseRx e info).consume.retire
  /-- `RxByte(b)` in `RX_ERR` (R108). -/
  | rxDiscard {rest : List EventKind} {b : Octet} {bs : List Octet} (h : s.schedule = .rxByte :: rest)
      (hr : s.resetDone = true) (hin : s.inbound = b :: bs) (hst : s.rxState = .err) :
      Transition s s.consume.retire
  /-- `FrameTake` where it is not enabled (R100). -/
  | takeWaits {rest : List EventKind} (h : s.schedule = .frameTake :: rest) (hr : s.resetDone = true)
      (hst : s.rxState ≠ .hold) : Transition s s.retire
  /-- `FrameTake` (R107). -/
  | take {rest : List EventKind} {f : Instr} (h : s.schedule = .frameTake :: rest) (hr : s.resetDone = true)
      (hst : s.rxState = .hold) (hf : s.heldFrame = some f) : Transition s (s.take f).retire
  /-- `TxFrame` with no descriptor offered, or in `TX_SEND` (R130). -/
  | txWaits {rest : List EventKind} (h : s.schedule = .txFrame :: rest) (hr : s.resetDone = true)
      (hw : s.descriptors = [] ∨ s.txState = .send) : Transition s s.retire
  /-- `TxFrame(d)` with a well-formed descriptor in `TX_IDLE` (R131). -/
  | txLoad {rest : List EventKind} {d : Descriptor} {ds : List Descriptor} {f : Instr}
      (h : s.schedule = .txFrame :: rest) (hr : s.resetDone = true) (hd : s.descriptors = d :: ds)
      (hst : s.txState = .idle) (hf : d.denote = some f) :
      Transition s (s.loadTx (encode f)).dropDescriptor.retire
  /-- `TxFrame(d)` with an ill-formed descriptor in `TX_IDLE` (R143). -/
  | txReject {rest : List EventKind} {d : Descriptor} {ds : List Descriptor}
      (h : s.schedule = .txFrame :: rest) (hr : s.resetDone = true) (hd : s.descriptors = d :: ds)
      (hst : s.txState = .idle) (hf : d.denote = none) :
      Transition s (s.raiseTx d.badCause).dropDescriptor.retire
  /-- `TxFrame(d)` in `TX_ERR` (R133). -/
  | txDiscard {rest : List EventKind} {d : Descriptor} {ds : List Descriptor}
      (h : s.schedule = .txFrame :: rest) (hr : s.resetDone = true) (hd : s.descriptors = d :: ds)
      (hst : s.txState = .err) : Transition s s.dropDescriptor.retire
  /-- `TxByte` where it is not enabled (R130). -/
  | byteWaits {rest : List EventKind} (h : s.schedule = .txByte :: rest) (hr : s.resetDone = true)
      (hst : s.txState ≠ .send) : Transition s s.retire
  /-- `TxByte` of the last octet (R132). -/
  | byteLast {rest : List EventKind} {b : Octet} (h : s.schedule = .txByte :: rest) (hr : s.resetDone = true)
      (hst : s.txState = .send) (hb : s.nextTxOctet = some b) (hc : s.txIdx.toNat + 1 = s.txLen.toNat) :
      Transition s (s.emit b).finishTx.retire
  /-- `TxByte` of another octet (R132). -/
  | byteMore {rest : List EventKind} {b : Octet} (h : s.schedule = .txByte :: rest) (hr : s.resetDone = true)
      (hst : s.txState = .send) (hb : s.nextTxOctet = some b) (hc : s.txIdx.toNat + 1 ≠ s.txLen.toNat) :
      Transition s (s.emit b).advanceTx.retire

variable {s t : State} {rest : List EventKind}

theorem afterReset_next {e : Host.Outcome State Fault Refusal} (h : afterReset s e = .next t) :
    s.resetDone = true ∧ e = .next t := by
  unfold afterReset at h
  split at h
  · exact ⟨‹_›, h⟩
  · cases h

theorem afterReset_of {e : Host.Outcome State Fault Refusal} (h : s.resetDone = true) : afterReset s e = e := by
  simp [afterReset, h]

/-- `RxByte` in `RX_BODY`, when it answers a next state. -/
theorem bodyOctet_transition {b : Octet} {bs : List Octet} (hs : s.schedule = .rxByte :: rest)
    (hr : s.resetDone = true) (hin : s.inbound = b :: bs) (hst : s.rxState = .body)
    (h : bodyOctet b s = .next t) : Transition s t := by
  unfold bodyOctet at h
  split at h
  · cases h
  · rename_i hlt
    have hlt : s.rxCnt.toNat < 253 := by simpa [Config.rxbSize] using hlt
    split at h
    · rename_i hc
      cases h
      exact .rxMore hs hr hin hst hlt hc
    · split at h
      · rename_i hc
        unfold lastOctet at h
        split at h
        · cases h
        · rename_i body hb
          split at h
          · cases h
          · rename_i f hd
            rw [exec_rx f hs, receiveFrame_lastOctet hin hst hc hlt] at h
            cases h
            exact .rxFrame hs hr hin hst hlt hc hb hd
          · rename_i e info hd
            cases h
            exact .rxMalformed hs hr hin hst hlt hc hb hd
      · cases h

/-- `RxByte`, when it answers a next state. -/
theorem rxByteEvent_transition (hs : s.schedule = .rxByte :: rest) (hr : s.resetDone = true)
    (h : rxByteEvent s = .next t) : Transition s t := by
  unfold rxByteEvent at h
  split at h
  · rename_i hin
    cases h
    exact .rxWaits hs hr (.inl hin)
  · rename_i b bs hin
    unfold rxOctet at h
    split at h
    · cases h
      exact .rxStart hs hr hin ‹_›
    · cases h
      exact .rxLen hs hr hin ‹_›
    · exact bodyOctet_transition hs hr hin ‹_› h
    · cases h
      exact .rxWaits hs hr (.inr ‹_›)
    · cases h
      exact .rxDiscard hs hr hin ‹_›

/-- `FrameTake`, when it answers a next state. -/
theorem frameTakeEvent_transition (hs : s.schedule = .frameTake :: rest) (hr : s.resetDone = true)
    (h : frameTakeEvent s = .next t) : Transition s t := by
  unfold frameTakeEvent at h
  split at h
  · split at h
    · cases h
      exact .take hs hr ‹_› ‹_›
    · cases h
  · cases h
    exact .takeWaits hs hr ‹_›

/-- `TxFrame`, when it answers a next state. -/
theorem txFrameEvent_transition (hs : s.schedule = .txFrame :: rest) (hr : s.resetDone = true)
    (h : txFrameEvent s = .next t) : Transition s t := by
  unfold txFrameEvent at h
  split at h
  · rename_i hd
    cases h
    exact .txWaits hs hr (.inl hd)
  · rename_i d ds hd
    unfold txDescriptor at h
    split at h
    · rename_i f hf
      rw [exec_tx f hs] at h
      rcases sendFrame_cases f s with ⟨hw, hn⟩ | ⟨_, hst, hn⟩ | ⟨_, hst, _, hn⟩ | ⟨_, _, hw, _⟩
      · rw [hn] at h
        cases h
        exact .txWaits hs hr hw
      · rw [hn] at h
        cases h
        exact .txDiscard hs hr hd hst
      · rw [hn] at h
        cases h
        exact .txLoad hs hr hd hst hf
      · rw [denote_wf hf] at hw
        cases hw
    · rename_i hf
      cases h
      unfold rejectTx
      split
      · exact .txWaits hs hr (.inr ‹_›)
      · exact .txDiscard hs hr hd ‹_›
      · exact .txReject hs hr hd ‹_› hf

/-- `TxByte`, when it answers a next state. -/
theorem txByteEvent_transition (hs : s.schedule = .txByte :: rest) (hr : s.resetDone = true)
    (h : txByteEvent s = .next t) : Transition s t := by
  unfold txByteEvent at h
  split at h
  · split at h
    · cases h
    · split at h
      · cases h
        exact .byteLast hs hr ‹_› ‹_› ‹_›
      · cases h
        exact .byteMore hs hr ‹_› ‹_› ‹_›
  · cases h
    exact .byteWaits hs hr ‹_›

/-- Everything a step can do. -/
theorem step_transition (h : step s = .next t) : Transition s t := by
  unfold step at h
  split at h
  · rename_i hs
    cases h
    exact .idle hs
  · rename_i ev evs hs
    cases ev with
    | reset =>
      cases h
      exact .reset hs
    | rxByte =>
      obtain ⟨hr, he⟩ := afterReset_next h
      exact rxByteEvent_transition hs hr he
    | frameTake =>
      obtain ⟨hr, he⟩ := afterReset_next h
      exact frameTakeEvent_transition hs hr he
    | txFrame =>
      obtain ⟨hr, he⟩ := afterReset_next h
      exact txFrameEvent_transition hs hr he
    | txByte =>
      obtain ⟨hr, he⟩ := afterReset_next h
      exact txByteEvent_transition hs hr he

/-! ## `RxByte(b)` in each state of the decoder -/

theorem rxOctet_start (b : Octet) (h : s.rxState = .start) : rxOctet b s = .next (startOctet b s).consume.retire := by
  simp only [rxOctet, h]

theorem rxOctet_len (b : Octet) (h : s.rxState = .len) : rxOctet b s = .next (lengthOctet b s).consume.retire := by
  simp only [rxOctet, h]

theorem rxOctet_body (b : Octet) (h : s.rxState = .body) : rxOctet b s = bodyOctet b s := by
  simp only [rxOctet, h]

theorem rxOctet_hold (b : Octet) (h : s.rxState = .hold) : rxOctet b s = .next s.retire := by
  simp only [rxOctet, h]

theorem rxOctet_err (b : Octet) (h : s.rxState = .err) : rxOctet b s = .next s.consume.retire := by
  simp only [rxOctet, h]

theorem bodyOctet_more (b : Octet) (hlt : s.rxCnt.toNat < 253) (hc : s.rxCnt.toNat + 1 < s.rxLen.toNat) :
    bodyOctet b s = .next (s.storeRx b).consume.retire := by
  have h : ¬ Config.rxbSize ≤ s.rxCnt.toNat := by simpa [Config.rxbSize] using hlt
  rw [bodyOctet, if_neg h, if_pos hc]

theorem bodyOctet_last (b : Octet) (hlt : s.rxCnt.toNat < 253) (hc : s.rxCnt.toNat + 1 = s.rxLen.toNat) :
    bodyOctet b s = lastOctet b s := by
  have h : ¬ Config.rxbSize ≤ s.rxCnt.toNat := by simpa [Config.rxbSize] using hlt
  rw [bodyOctet, if_neg h, if_neg (by omega), if_pos hc]

theorem lastOctet_malformed {b : Octet} {body : List Octet} {e : ErrCode} {info : Octet}
    (hb : (s.storeRx b).rxBody = some body) (hd : decodeBody body = some (.err e info)) :
    lastOctet b s = .next ((s.storeRx b).raiseRx e info).consume.retire := by
  simp only [lastOctet, hb, hd]

theorem lastOctet_frame {b : Octet} {body : List Octet} {f : Instr} (hb : (s.storeRx b).rxBody = some body)
    (hd : decodeBody body = some (.ok f)) : lastOctet b s = exec f s := by
  simp only [lastOctet, hb, hd]

/-! ## Which event a step performs -/

theorem step_of_schedule {ev : EventKind} (hs : s.schedule = ev :: rest) : step s = perform ev s := by
  simp [step, hs]

theorem step_rxByte (hs : s.schedule = .rxByte :: rest) (hr : s.resetDone = true) : step s = rxByteEvent s := by
  rw [step_of_schedule hs, perform, afterReset_of hr]

theorem step_frameTake (hs : s.schedule = .frameTake :: rest) (hr : s.resetDone = true) :
    step s = frameTakeEvent s := by
  rw [step_of_schedule hs, perform, afterReset_of hr]

theorem step_txFrame (hs : s.schedule = .txFrame :: rest) (hr : s.resetDone = true) : step s = txFrameEvent s := by
  rw [step_of_schedule hs, perform, afterReset_of hr]

theorem step_txByte (hs : s.schedule = .txByte :: rest) (hr : s.resetDone = true) : step s = txByteEvent s := by
  rw [step_of_schedule hs, perform, afterReset_of hr]

theorem step_reset (hs : s.schedule = .reset :: rest) : step s = .next s.resetBlock.retire := by
  rw [step_of_schedule hs, perform]

end Sys2Proof.Machine
end

