-- ==== Sys2Proof/Laws/Halves.lean ====
section
/-! SUPPORT. What is the same after a step: the converse of `step_transition`, the schedule, the half an event leaves alone, and
the invariants of states that agree on a half; runs and octet strings cut in two. -/

namespace Sys2Proof.Machine

variable {s t : State}

/-- `Transition` says nothing more than `step` does. -/
theorem step_of_transition (h : Transition s t) : step s = .next t := by
  cases h with
  | idle h => simp [step, h]
  | reset h => exact step_reset h
  | rxWaits h hr hw =>
    rw [step_rxByte h hr, rxByteEvent]
    split
    · rfl
    · rcases hw with hw | hw
      · simp_all
      · exact rxOctet_hold _ hw
  | rxStart h hr hin hst =>
    rw [step_rxByte h hr, rxByteEvent, hin]
    exact rxOctet_start _ hst
  | rxLen h hr hin hst =>
    rw [step_rxByte h hr, rxByteEvent, hin]
    exact rxOctet_len _ hst
  | rxMore h hr hin hst hlt hc =>
    rw [step_rxByte h hr, rxByteEvent, hin]
    exact (rxOctet_body _ hst).trans (bodyOctet_more _ hlt hc)
  | rxFrame h hr hin hst hlt hc hb hd =>
    rw [step_rxByte h hr, rxByteEvent, hin]
    exact (rxOctet_body _ hst).trans ((bodyOctet_last _ hlt hc).trans
      ((lastOctet_frame hb hd).trans ((exec_rx _ h).trans (receiveFrame_lastOctet hin hst hc hlt))))
  | rxMalformed h hr hin hst hlt hc hb hd =>
    rw [step_rxByte h hr, rxByteEvent, hin]
    exact (rxOctet_body _ hst).trans ((bodyOctet_last _ hlt hc).trans (lastOctet_malformed hb hd))
  | rxDiscard h hr hin hst =>
    rw [step_rxByte h hr, rxByteEvent, hin]
    exact rxOctet_err _ hst
  | takeWaits h hr hst => rw [step_frameTake h hr, frameTakeEvent, if_neg hst]
  | take h hr hst hf => rw [step_frameTake h hr, frameTakeEvent, if_pos hst, hf]
  | txWaits h hr hw =>
    rw [step_txFrame h hr, txFrameEvent]
    split
    · rfl
    · rename_i d ds hd
      have hst : s.txState = .send := by simpa [hd] using hw
      rw [txDescriptor]
      split
      · simp only [exec_tx _ h, sendFrame, hd, acceptTx, hst]
      · simp only [rejectTx, hst]
  | txLoad h hr hd hst hf =>
    simp only [step_txFrame h hr, txFrameEvent, hd, txDescriptor, hf, exec_tx _ h, sendFrame, acceptTx, hst, denote_wf hf,
      if_true]
  | txReject h hr hd hst hf => simp only [step_txFrame h hr, txFrameEvent, hd, txDescriptor, hf, rejectTx, hst]
  | txDiscard h hr hd hst =>
    rw [step_txFrame h hr, txFrameEvent, hd]
    simp only [txDescriptor]
    split
    · simp only [exec_tx _ h, sendFrame, hd, acceptTx, hst]
    · simp only [rejectTx, hst]
  | byteWaits h hr hst => rw [step_txByte h hr, txByteEvent, if_neg hst]
  | byteLast h hr hst hb hc =>
    rw [step_txByte h hr, txByteEvent, if_pos hst, hb]
    exact if_pos hc
  | byteMore h hr hst hb hc =>
    rw [step_txByte h hr, txByteEvent, if_pos hst, hb]
    exact if_neg hc

/-- A step uses up the event at hand. -/
theorem step_schedule (h : step s = .next t) : t.schedule = s.schedule.tail := by
  have ht := step_transition h
  clear h
  cases ht <;> try simp_all
  · simp only [startOctet]
    split <;> simp_all
  · simp only [lengthOctet]
    split_ifs <;> simp_all

/-- A `Reset` stays done. -/
theorem step_resetDone (h : step s = .next t) (hr : s.resetDone = true) : t.resetDone = true := by
  have ht := step_transition h
  clear h
  cases ht <;> try simp_all
  · simp only [startOctet]
    split <;> simp_all
  · simp only [lengthOctet]
    split_ifs <;> simp_all

/-- Each event but `Reset` leaves the other half alone; with no event nothing changes. -/
theorem step_halves (h : step s = .next t) (hs : s.schedule.head? ≠ some .reset) :
    (SameTx s t ∧ (s.schedule.head? = some .rxByte ∨ s.schedule.head? = some .frameTake)) ∨
    (SameRx s t ∧ (s.schedule.head? = some .txFrame ∨ s.schedule.head? = some .txByte)) ∨ t = s := by
  have ht := step_transition h
  clear h
  cases ht with
  | idle h => exact .inr (.inr rfl)
  | reset h => simp [h] at hs
  | rxStart h =>
    refine .inl ⟨?_, by simp [h]⟩
    simp only [startOctet]
    split <;> simp [SameTx]
  | rxLen h =>
    refine .inl ⟨?_, by simp [h]⟩
    simp only [lengthOctet]
    split_ifs <;> simp [SameTx]
  | rxWaits h => exact .inl ⟨by simp [SameTx], by simp [h]⟩
  | rxMore h => exact .inl ⟨by simp [SameTx], by simp [h]⟩
  | rxFrame h => exact .inl ⟨by simp [SameTx], by simp [h]⟩
  | rxMalformed h => exact .inl ⟨by simp [SameTx], by simp [h]⟩
  | rxDiscard h => exact .inl ⟨by simp [SameTx], by simp [h]⟩
  | takeWaits h => exact .inl ⟨by simp [SameTx], by simp [h]⟩
  | take h => exact .inl ⟨by simp [SameTx], by simp [h]⟩
  | txWaits h => exact .inr (.inl ⟨by simp [SameRx], by simp [h]⟩)
  | txLoad h => exact .inr (.inl ⟨by simp [SameRx], by simp [h]⟩)
  | txReject h => exact .inr (.inl ⟨by simp [SameRx], by simp [h]⟩)
  | txDiscard h => exact .inr (.inl ⟨by simp [SameRx], by simp [h]⟩)
  | byteWaits h => exact .inr (.inl ⟨by simp [SameRx], by simp [h]⟩)
  | byteLast h => exact .inr (.inl ⟨by simp [SameRx], by simp [h]⟩)
  | byteMore h => exact .inr (.inl ⟨by simp [SameRx], by simp [h]⟩)

/-- The decoder's invariant reads the decoder's registers and buffer only. -/
theorem RxInv.congr (hi : RxInv s) (h1 : t.rxState = s.rxState) (h2 : t.rxLen = s.rxLen) (h3 : t.rxCnt = s.rxCnt)
    (h4 : t.rxBuf = s.rxBuf) (h5 : t.rxErr = s.rxErr) : RxInv t := by
  obtain ⟨a, b, c, d, e, f⟩ := hi
  have hh : t.heldFrame = s.heldFrame := by simp [State.heldFrame, State.rxBody, h1, h2, h4]
  rw [← h1, ← h2, ← h3] at c
  rw [← h1, ← h3, ← h4] at d
  rw [← h1, ← h2, ← h3, ← hh] at e
  rw [← h1, ← h5] at f
  exact ⟨by rw [h4]; exact a, by rw [h4]; exact b, c, d, e, f⟩

/-- The encoder's invariant reads the encoder's registers, its buffer and the outbound stream only. -/
theorem TxInv.congr (hi : TxInv s) (h1 : t.txState = s.txState) (h2 : t.txLen = s.txLen) (h3 : t.txIdx = s.txIdx)
    (h4 : t.txBuf = s.txBuf) (h5 : t.txErr = s.txErr) (h6 : t.outbound = s.outbound) : TxInv t := by
  obtain ⟨a, b, c, d, e, f⟩ := hi
  rw [← h1, ← h2, ← h3] at c
  refine ⟨by rw [h4]; exact a, by rw [h4]; exact b, c, ?_, by rw [h5, h1]; exact e, by rw [h5]; exact f⟩
  simp only [Sending, h1, h2, h3, h4, h6]
  exact d

/-- States that agree on both halves, the schedule and `resetDone` are equal. -/
theorem State.eq_of_halves (h1 : SameRx s t) (h2 : SameTx s t) (h3 : t.schedule = s.schedule)
    (h4 : t.resetDone = s.resetDone) : t = s := by
  obtain ⟨_, _, _, _, _, _, _, _⟩ := h1
  obtain ⟨_, _, _, _, _, _, _⟩ := h2
  cases s
  cases t
  simp_all

/-- A run of `m + n` steps is a run of `m` and then one of `n`. -/
theorem runSteps_add (m n : Nat) (s : State) :
    runSteps (m + n) s =
      match runSteps m s with
      | .next t => runSteps n t
      | .fault r => .fault r
      | .refused r => .refused r := by
  induction m generalizing s with
  | zero => simp [runSteps]
  | succ m ih =>
    rw [show m + 1 + n = (m + n) + 1 by omega]
    simp only [runSteps]
    cases step s with
    | next t => exact ih t
    | fault r => rfl
    | refused r => rfl

/-- Octets that follow do not change what an octet string has been found to begin with. -/
theorem decodeApdu_append (p q : List Octet) :
    match decodeApdu p with
    | .needMore => True
    | .frame f r => decodeApdu (p ++ q) = .frame f (r ++ q)
    | .error e info => decodeApdu (p ++ q) = .error e info := by
  match p with
  | [] => trivial
  | [x] =>
    by_cases hx : x = Config.start
    · simp [decodeApdu, hx]
    · simp [decodeApdu, hx]
  | x :: l :: r =>
    by_cases hx : x = Config.start
    · simp only [decodeApdu, hx, decodeLength, Config.maxLen, Config.minLen, List.cons_append, ne_eq, not_true_eq_false,
        if_false]
      by_cases h1 : 253 < l.toNat
      · simp [h1]
      by_cases h2 : l.toNat < 4
      · simp [h1, h2]
      simp only [h1, h2, if_false, decodeAfterHeader]
      by_cases h3 : r.length < l.toNat
      · simp [h3]
      have h4 : ¬ (r ++ q).length < l.toNat := by
        rw [List.length_append]
        omega
      simp only [h3, h4, if_false]
      rw [List.take_append_of_le_length (by omega), List.drop_append_of_le_length (by omega)]
      obtain ⟨c, hc⟩ := Option.isSome_iff_exists.1
        ((decodeBody_isSome_iff (r.take l.toNat)).2 (by rw [List.length_take]; omega))
      rw [hc]
      cases c <;> rfl
    · simp [decodeApdu, hx]

end Sys2Proof.Machine
end

