-- ==== Sys2Proof/Tests/Slice0.lean ====
section
/-! SUPPORT. Tests against the worked examples of spec/95_test_vectors.md, and for every obligation with hypotheses a witness
that meets them, each clause at a boundary value. -/

namespace Sys2Proof.Tests

open Sys2Proof Sys2Proof.Machine

/-! ## Well-formedness (R72, R76) -/

theorem test_wf_refuses_250_octets : (Instr.i 0#15 0#15 (List.replicate 250 0#8)).wf = false := by
  rw [← Bool.not_eq_true, wf_iff, Instr.asdu, List.length_replicate]
  decide

theorem test_wf_accepts_249_octets (ns nr : SeqNum) (b : Octet) : (Instr.i ns nr (List.replicate 249 b)).wf = true := by
  rw [wf_iff, Instr.asdu, List.length_replicate]

theorem test_wf_accepts_no_octets : (Instr.i 0#15 0#15 []).wf = true ∧ (Instr.s 0#15).wf = true := by decide

/-! ## Decoding words written out from the opcode map (R73, R83) and the vectors V-I*, V-S*, V-U* -/

theorem test_word_i : decodeTableWord 32 0x00040002 = some (.i 1#15 2#15 []) := by decide

theorem test_word_i_with_payload : decodeTableWord 48 0xBBAA00040002 = some (.i 1#15 2#15 [0xAA#8, 0xBB#8]) := by decide

theorem test_word_i_largest_numbers : decodeTableWord 32 0xFFFEFFFE = some (.i 32767#15 32767#15 []) := by decide

theorem test_word_s : decodeTableWord 32 0x000A0001 = some (.s 5#15) := by decide

theorem test_word_s_high_octet : decodeTableWord 32 0x24680001 = some (.s 4660#15) := by decide

theorem test_words_u :
    [0x07, 0x0B, 0x13, 0x23, 0x43, 0x83].map (decodeTableWord 32) =
      [some .startdtAct, some .startdtCon, some .stopdtAct, some .stopdtCon, some .testfrAct, some .testfrCon] := by
  decide

theorem test_words_refused :
    [0x03, 0x0F, 0xFF, 0xC3, 0x01000007, 0x0107, 0x05, 0x0101, 0x00010001, 0x00010000].map (decodeTableWord 32) =
      List.replicate 10 none := by
  decide

theorem test_apdu_seven_bit_boundary :
    decodeApdu [0x68#8, 0x05#8, 0xFE#8, 0x00#8, 0x00#8, 0x01#8, 0x00#8] = .frame (.i 127#15 128#15 [0x00#8]) [] := by
  decide

theorem test_apdu_top_bit : decodeApdu [0x68#8, 0x04#8, 0x00#8, 0x80#8, 0xFE#8, 0x01#8] = .frame (.i 16384#15 255#15 []) [] := by
  decide

theorem test_apdu_start_octet_as_data :
    decodeApdu [0x68#8, 0x05#8, 0x68#8, 0x00#8, 0x00#8, 0x00#8, 0x68#8] = .frame (.i 52#15 0#15 [0x68#8]) [] := by
  decide

theorem test_header_errors :
    decodeApdu [0x69#8] = .error .invalidStartByte 0x69#8 ∧ decodeApdu [0x68#8, 0xFE#8] = .error .frameTooLarge 0xFE#8 ∧
    decodeApdu [0x68#8, 0x03#8] = .error .frameTooShort 0x03#8 ∧ decodeApdu [0x68#8, 0xFD#8] = .needMore ∧
    decodeApdu [0x68#8, 0x04#8] = .needMore := by
  decide

theorem test_payload_errors :
    decodeApdu [0x68#8, 0x05#8, 0x01#8, 0#8, 0#8, 0#8, 0#8] = .error .unexpectedPayload 0x05#8 ∧
    decodeApdu [0x68#8, 0x05#8, 0x07#8, 0#8, 0#8, 0#8, 0#8] = .error .unexpectedPayload 0x05#8 ∧
    decodeApdu [0x68#8, 0x05#8, 0x0F#8, 0#8, 0#8, 0#8, 0xAA#8] = .error .invalidControlField 0x0F#8 := by
  decide

/-! ## Encoding -/

theorem test_encode_i :
    encode (.i 1#15 2#15 [0xAA#8, 0xBB#8]) = [0x68#8, 0x06#8, 0x02#8, 0x00#8, 0x04#8, 0x00#8, 0xAA#8, 0xBB#8] := by
  decide

theorem test_encode_i_numbers : encode (.i 300#15 299#15 []) = [0x68#8, 0x04#8, 0x58#8, 0x02#8, 0x56#8, 0x02#8] := by decide

theorem test_encode_s : encode (.s 128#15) = [0x68#8, 0x04#8, 0x01#8, 0x00#8, 0x00#8, 0x01#8] := by decide

theorem test_encode_u :
    [Instr.startdtAct, .startdtCon, .stopdtAct, .stopdtCon, .testfrAct, .testfrCon].map encode =
      [0x07#8, 0x0B#8, 0x13#8, 0x23#8, 0x43#8, 0x83#8].map fun p => [0x68#8, 0x04#8, p, 0#8, 0#8, 0#8] := by
  decide

/-! ## Small states -/

/-- The next state of an outcome, if it is one. -/
def nextOf : Host.Outcome State Fault Refusal → Option State
  | .next t => some t
  | .fault _ => none
  | .refused _ => none

/-- A decoder in `RX_START`, `RX_LEN` or `RX_ERR` with `ev` at hand and the octet `b` offered. -/
def rxAt (st : RxState) (b : Octet) (ev : EventKind) : State :=
  { State.reset with
    rxState := st, rxErr := if st = .err then .invalidStartByte else .none, inbound := [b], schedule := [ev] }

/-- A decoder that collects a body of length octet `l`, the octets `q` received, with the octet `b` at hand. -/
def rxBodyAt (l : Octet) (q : List Octet) (b : Octet) : State :=
  { State.reset with
    rxState := .body, rxLen := l, rxCnt := BitVec.ofNat 8 q.length, rxBuf := Memory.writeAll [] 0 q, inbound := [b],
    schedule := [.rxByte] }

/-- A decoder that holds the frame with this body, with `ev` at hand and an octet waiting. -/
def heldAt (body : List Octet) (ev : EventKind) : State :=
  { State.reset with
    rxState := .hold, rxLen := BitVec.ofNat 8 body.length, rxCnt := BitVec.ofNat 8 body.length,
    rxBuf := Memory.writeAll [] 0 body, inbound := [0x68#8], schedule := [ev] }

/-- A descriptor whose ASDU port answers 0xAA at index 0 and 0xBB above. -/
def desc (kind : BitVec 2) (ufunc : BitVec 3) (ns nr : SeqNum) (len : BitVec 8) : Descriptor where
  kind := kind
  ufunc := ufunc
  ns := ns
  nr := nr
  asduLen := len
  asdu := (Vector.replicate 256 0xBB#8).set 0 0xAA#8

/-- An encoder in `TX_IDLE` or `TX_ERR` with the descriptor `d` at hand. -/
def txAt (st : TxState) (d : Descriptor) : State :=
  { State.reset with
    txState := st, txErr := if st = .err then .frameTooLarge else .none, descriptors := [d], schedule := [.txFrame] }

/-- An encoder sending `U(TESTFR_CON)`, `k` of its octets gone, with `ev` at hand and a descriptor waiting. -/
def sendAt (k : Nat) (ev : EventKind) : State :=
  { State.reset with
    txState := .send, txLen := 6#8, txIdx := BitVec.ofNat 8 k, txBuf := Memory.writeAll [] 0 (encode .testfrCon),
    outbound := (encode .testfrCon).take k, descriptors := [desc 1#2 0#3 0#15 5#15 0#8], schedule := [ev] }

/-- What a test looks at after a step of the decoder. -/
structure RxView where
  state : RxState
  len : Nat
  cnt : Nat
  err : ErrCode
  info : Octet
  out : List RxOutput
deriving DecidableEq, Repr

def rxView (o : Host.Outcome State Fault Refusal) : Option RxView :=
  (nextOf o).map fun t => ⟨t.rxState, t.rxLen.toNat, t.rxCnt.toNat, t.rxErr, t.rxErrInfo, t.rxOut⟩

/-- What a test looks at after a step of the encoder. -/
structure TxView where
  state : TxState
  len : Nat
  idx : Nat
  err : ErrCode
  octets : Option (List Octet)
deriving DecidableEq, Repr

def txView (o : Host.Outcome State Fault Refusal) : Option TxView :=
  (nextOf o).map fun t => ⟨t.txState, t.txLen.toNat, t.txIdx.toNat, t.txErr, t.txBuf.readRange 0 t.txLen.toNat⟩

/-! ## One step: the decoder's frames (section 2.1 to 2.3) -/

theorem test_receive_i :
    rxView (step (rxBodyAt 6#8 [0x02#8, 0x00#8, 0x04#8, 0x00#8, 0xAA#8] 0xBB#8)) =
      some ⟨.hold, 6, 6, .none, 0#8, [.frame (.i 1#15 2#15 [0xAA#8, 0xBB#8])]⟩ := by
  decide

theorem test_receive_s :
    rxView (step (State.reset.withFetchWord 32 0xFFFE0001)) = some ⟨.hold, 4, 4, .none, 0#8, [.frame (.s 32767#15)]⟩ := by
  decide

theorem test_receive_startdtAct :
    rxView (step (State.reset.withFetchWord 32 0x07)) = some ⟨.hold, 4, 4, .none, 0#8, [.frame .startdtAct]⟩ := by
  decide

theorem test_receive_startdtCon :
    rxView (step (State.reset.withFetchWord 32 0x0B)) = some ⟨.hold, 4, 4, .none, 0#8, [.frame .startdtCon]⟩ := by
  decide

theorem test_receive_stopdtAct :
    rxView (step (State.reset.withFetchWord 32 0x13)) = some ⟨.hold, 4, 4, .none, 0#8, [.frame .stopdtAct]⟩ := by
  decide

theorem test_receive_stopdtCon :
    rxView (step (State.reset.withFetchWord 32 0x23)) = some ⟨.hold, 4, 4, .none, 0#8, [.frame .stopdtCon]⟩ := by
  decide

theorem test_receive_testfrAct :
    rxView (step (State.reset.withFetchWord 32 0x43)) = some ⟨.hold, 4, 4, .none, 0#8, [.frame .testfrAct]⟩ := by
  decide

theorem test_receive_testfrCon :
    rxView (step (State.reset.withFetchWord 32 0x83)) = some ⟨.hold, 4, 4, .none, 0#8, [.frame .testfrCon]⟩ := by
  decide

theorem test_receive_malformed :
    rxView (step (rxBodyAt 4#8 [0x01#8, 0x00#8, 0x01#8] 0x00#8)) =
      some ⟨.err, 4, 4, .invalidControlField, 0x01#8, [.error .invalidControlField 0x01#8]⟩ := by
  decide

theorem test_receive_too_much :
    rxView (step (rxBodyAt 5#8 [0x07#8, 0x00#8, 0x00#8, 0x00#8] 0x00#8)) =
      some ⟨.err, 5, 5, .unexpectedPayload, 0x05#8, [.error .unexpectedPayload 0x05#8]⟩ := by
  decide

/-! ## One step: the decoder's other rules (section 2.4, 2.5, 2.7, P5) -/

theorem test_start_octet : rxView (step (rxAt .start 0x68#8 .rxByte)) = some ⟨.len, 0, 0, .none, 0#8, []⟩ := by decide

theorem test_bad_start_octet :
    rxView (step (rxAt .start 0x69#8 .rxByte)) =
      some ⟨.err, 0, 0, .invalidStartByte, 0x69#8, [.error .invalidStartByte 0x69#8]⟩ := by
  decide

theorem test_length_octets :
    [0x03#8, 0x04#8, 0xFD#8, 0xFE#8].map (fun l => (nextOf (step (rxAt .len l .rxByte))).map fun t => (t.rxState, t.rxErr)) =
      [some (.err, .frameTooShort), some (.body, .none), some (.body, .none), some (.err, .frameTooLarge)] := by
  decide

theorem test_frame_take :
    rxView (step (heldAt [0x07#8, 0#8, 0#8, 0#8] .frameTake)) = some ⟨.start, 4, 4, .none, 0#8, [.taken .startdtAct]⟩ := by
  decide

theorem test_octet_waits_in_hold :
    (nextOf (step (heldAt [0x07#8, 0#8, 0#8, 0#8] .rxByte))).map (fun t => (t.rxState, t.inbound)) =
      some (.hold, [0x68#8]) := by
  decide

theorem test_hold_outputs :
    (heldAt [0x02#8, 0x00#8, 0x04#8, 0x00#8, 0xAA#8, 0xBB#8] .rxByte).frameOut 0 =
      { kind := 0#2, ufunc := 0#3, ns := 1#15, nr := 2#15, asduLen := 2#8 } ∧
    (heldAt [0x02#8, 0x00#8, 0x04#8, 0x00#8, 0xAA#8, 0xBB#8] .rxByte).asduData 0 1#8 = 0xBB#8 := by
  exact ⟨rfl, rfl⟩

/-! ## One step: the encoder (section 2.6, P2) -/

theorem test_send_i :
    txView (step (txAt .idle (desc 0#2 0#3 1#15 2#15 2#8))) =
      some ⟨.send, 8, 0, .none, some [0x68#8, 0x06#8, 0x02#8, 0x00#8, 0x04#8, 0x00#8, 0xAA#8, 0xBB#8]⟩ := by
  decide

theorem test_send_s :
    txView (step (txAt .idle (desc 1#2 7#3 123#15 5#15 200#8))) =
      some ⟨.send, 6, 0, .none, some [0x68#8, 0x04#8, 0x01#8, 0x00#8, 0x0A#8, 0x00#8]⟩ := by
  decide

theorem test_send_startdtAct :
    txView (step (txAt .idle (desc 3#2 0#3 9#15 9#15 9#8))) =
      some ⟨.send, 6, 0, .none, some [0x68#8, 0x04#8, 0x07#8, 0#8, 0#8, 0#8]⟩ := by
  decide

theorem test_send_startdtCon :
    txView (step (txAt .idle (desc 3#2 1#3 9#15 9#15 9#8))) =
      some ⟨.send, 6, 0, .none, some [0x68#8, 0x04#8, 0x0B#8, 0#8, 0#8, 0#8]⟩ := by
  decide

theorem test_send_stopdtAct :
    txView (step (txAt .idle (desc 3#2 2#3 9#15 9#15 9#8))) =
      some ⟨.send, 6, 0, .none, some [0x68#8, 0x04#8, 0x13#8, 0#8, 0#8, 0#8]⟩ := by
  decide

theorem test_send_stopdtCon :
    txView (step (txAt .idle (desc 3#2 3#3 9#15 9#15 9#8))) =
      some ⟨.send, 6, 0, .none, some [0x68#8, 0x04#8, 0x23#8, 0#8, 0#8, 0#8]⟩ := by
  decide

theorem test_send_testfrAct :
    txView (step (txAt .idle (desc 3#2 4#3 9#15 9#15 9#8))) =
      some ⟨.send, 6, 0, .none, some [0x68#8, 0x04#8, 0x43#8, 0#8, 0#8, 0#8]⟩ := by
  decide

theorem test_send_testfrCon :
    txView (step (txAt .idle (desc 3#2 5#3 9#15 9#15 9#8))) =
      some ⟨.send, 6, 0, .none, some [0x68#8, 0x04#8, 0x83#8, 0#8, 0#8, 0#8]⟩ := by
  decide

theorem test_reject_descriptors :
    [desc 0#2 0#3 0#15 0#15 250#8, desc 2#2 0#3 0#15 0#15 0#8, desc 3#2 6#3 0#15 0#15 0#8].map
        (fun d => (nextOf (step (txAt .idle d))).map fun t => (t.txState, t.txErr, t.outbound)) =
      [some (.err, .frameTooLarge, []), some (.err, .invalidControlField, []), some (.err, .invalidControlField, [])] := by
  decide

theorem test_emit_last_octet :
    (nextOf (step (sendAt 5 .txByte))).map (fun t => (t.txState, t.txIdx.toNat, t.outbound)) =
      some (.idle, 0, [0x68#8, 0x04#8, 0x83#8, 0#8, 0#8, 0#8]) := by
  decide

theorem test_emit_octet :
    (nextOf (step (sendAt 2 .txByte))).map (fun t => (t.txState, t.txIdx.toNat, t.outbound)) =
      some (.send, 3, [0x68#8, 0x04#8, 0x83#8]) := by
  decide

theorem test_reset_after_error :
    rxView (step (rxAt .err 0x68#8 .reset)) = some ⟨.start, 0, 0, .none, 0#8, []⟩ := by
  decide

theorem test_before_first_reset : step { rxAt .start 0x68#8 .rxByte with resetDone := false } = .refused .beforeReset := rfl

/-! ## Good states, for the witnesses -/

theorem rxInv_quiet {s : State} (hw : s.rxBuf = []) (hb : s.rxState ≠ .body) (hh : s.rxState ≠ .hold)
    (he : s.rxErr = .none ↔ s.rxState ≠ .err) : RxInv s :=
  ⟨by rw [hw]; rfl, by rw [hw]; rfl, fun h => absurd h hb, fun h => absurd h hb, fun h => absurd h hh, he⟩

theorem txInv_quiet {s : State} (hw : s.txBuf = []) (hs : s.txState ≠ .send)
    (he : s.txErr = .none ↔ s.txState ≠ .err) (hc : s.txErr = .none ∨ s.txErr = .frameTooLarge) : TxInv s :=
  ⟨by rw [hw]; rfl, by rw [hw]; rfl, fun h => absurd h hs, fun h => absurd h hs, he, hc.imp_right .inl⟩

theorem txInv_idle {s : State} (hw : s.txBuf = []) (hs : s.txState = .idle) (he : s.txErr = .none) : TxInv s :=
  txInv_quiet hw (by simp [hs]) (by simp [hs, he]) (.inl he)

theorem inv_rxAt {st : RxState} (b : Octet) (ev : EventKind) (hb : st ≠ .body) (hh : st ≠ .hold) : Inv (rxAt st b ev) := by
  refine ⟨rxInv_quiet rfl hb hh ?_, txInv_idle rfl rfl rfl⟩
  cases st <;> simp [rxAt]

theorem writeAll_isSome (q : List Octet) {a : Nat} (h : a < q.length) : ((Memory.writeAll [] 0 q).read a).isSome = true := by
  rw [Memory.read_writeAll, if_pos (by omega)]
  simp [h]

theorem inv_rxBodyAt {l : Octet} {q : List Octet} (b : Octet) (h4 : 4 ≤ l.toNat) (h253 : l.toNat ≤ 253)
    (hq : q.length < l.toNat) : Inv (rxBodyAt l q b) := by
  have hc : (BitVec.ofNat 8 q.length).toNat = q.length := by
    rw [BitVec.toNat_ofNat]
    omega
  refine ⟨⟨Memory.wf_writeAll q rfl, Memory.within_writeAll q rfl (show 0 + q.length ≤ 253 by omega), fun _ => ?_, fun _ a ha => ?_,
    by simp [rxBodyAt], by simp [rxBodyAt, State.reset]⟩, txInv_idle rfl rfl rfl⟩
  · exact ⟨h4, h253, by simpa [rxBodyAt, hc] using hq⟩
  · exact writeAll_isSome q (by simpa [rxBodyAt, hc] using ha)

theorem rxLast_rxBodyAt {l : Octet} {q : List Octet} (b : Octet) (h253 : l.toNat ≤ 253) (hq : q.length + 1 = l.toNat) :
    RxLastAtHand b (q ++ [b]) (rxBodyAt l q b) := by
  have hc : (BitVec.ofNat 8 q.length).toNat = q.length := by
    rw [BitVec.toNat_ofNat]
    omega
  refine ⟨⟨rfl, rfl, rfl⟩, rfl, by simpa [rxBodyAt, hc] using hq, h253, ?_⟩
  have h := Memory.readRange_write_end (a := 0) b (Memory.readRange_writeAll [] 0 q)
  simpa only [rxBodyAt, hc, ← hq, Nat.zero_add] using h

theorem inv_heldAt {body : List Octet} {f : Instr} (ev : EventKind) (h4 : 4 ≤ body.length) (h253 : body.length ≤ 253)
    (hd : decodeBody body = some (.ok f)) : Inv (heldAt body ev) := by
  have hc : (BitVec.ofNat 8 body.length).toNat = body.length := by
    rw [BitVec.toNat_ofNat]
    omega
  refine ⟨⟨Memory.wf_writeAll body rfl, Memory.within_writeAll body rfl (show 0 + body.length ≤ 253 by omega),
    by simp [heldAt], by simp [heldAt], fun _ => ?_, by simp [heldAt, State.reset]⟩,
    txInv_idle rfl rfl rfl⟩
  refine ⟨by simpa [heldAt, hc] using h4, by simpa [heldAt, hc] using h253, rfl, f, ?_⟩
  refine (heldFrame_eq_some_iff _ f).2 ⟨rfl, body, ?_, hd⟩
  have h := Memory.readRange_writeAll [] 0 body
  simpa only [State.rxBody, heldAt, hc] using h

theorem inv_txAt {st : TxState} (d : Descriptor) (hs : st ≠ .send) : Inv (txAt st d) := by
  refine ⟨rxInv_quiet rfl (by simp [txAt, State.reset]) (by simp [txAt, State.reset]) (by simp [txAt, State.reset]),
    txInv_quiet rfl hs ?_ ?_⟩ <;> cases st <;> simp [txAt]

theorem sending_sendAt {k : Nat} (ev : EventKind) (hk : k < 6) : Sending .testfrCon (sendAt k ev) := by
  refine ⟨rfl, rfl, rfl, [], ?_⟩
  have hc : (BitVec.ofNat 8 k).toNat = k := by
    rw [BitVec.toNat_ofNat]
    omega
  simp [sendAt, hc]

theorem inv_sendAt {k : Nat} (ev : EventKind) (hk : k < 6) : Inv (sendAt k ev) := by
  have hc : (BitVec.ofNat 8 k).toNat = k := by
    rw [BitVec.toNat_ofNat]
    omega
  refine ⟨rxInv_quiet rfl (by simp [sendAt, State.reset]) (by simp [sendAt, State.reset]) (by simp [sendAt, State.reset]),
    ⟨rfl, rfl, fun _ => ?_, fun _ => ⟨_, sending_sendAt ev hk⟩, by simp [sendAt, State.reset],
      by simp [sendAt, State.reset]⟩⟩
  simp [sendAt, hc]
  omega

/-- All but the last octet of the largest body: `I(0, 0, ...)` with 249 octets (V-I9's length). -/
def fullBody : List Octet := 0x00#8 :: 0x00#8 :: 0x00#8 :: 0x00#8 :: List.replicate 248 0x55#8

theorem fullBody_length : fullBody.length = 252 := by
  simp only [fullBody, List.length_cons, List.length_replicate]

theorem decodeBody_fullBody (b : Octet) :
    decodeBody (fullBody ++ [b]) = some (.ok (.i 0#15 0#15 (List.replicate 248 0x55#8 ++ [b]))) := by
  have h : (List.replicate 248 0x55#8 ++ [b]).length ≤ Config.maxAsdu := by
    rw [List.length_append, List.length_replicate, List.length_singleton]
    decide
  simp only [fullBody, List.cons_append, decodeBody, if_pos h]
  rfl

theorem rxLast_full (b : Octet) : RxLastAtHand b (fullBody ++ [b]) (rxBodyAt 253#8 fullBody b) :=
  rxLast_rxBodyAt b (by decide) (by rw [fullBody_length]; decide)

/-! ## Witnesses: encoding -/

theorem test_witness_EncodedFramesDecodeBack : (Instr.i 32767#15 0#15 (List.replicate 249 0xFF#8)).wf = true :=
  test_wf_accepts_249_octets _ _ _

theorem test_witness_AcceptedStringsAreTheEncodings :
    decodeApdu [0x68#8, 0x04#8, 0x07#8, 0#8, 0#8, 0#8] = .frame .startdtAct [] := by decide

theorem test_witness_OpcodeMapDecidesTheFrame :
    (List.replicate 249 0x00#8).length ≤ 249 ∧ ([] : List Octet).length ≤ 249 ∧
    (opcodeTable.map fun r => r.matchesWord (controlWord 0xFE#8 0xFF#8 0xFE#8 0xFF#8)) =
      [true, false, false, false, false, false, false, false] ∧
    (opcodeTable.map fun r => r.matchesWord (controlWord 0x01#8 0x00#8 0xFE#8 0xFF#8)) =
      [false, true, false, false, false, false, false, false] ∧
    (opcodeTable.map fun r => r.matchesWord (controlWord 0x83#8 0x00#8 0x00#8 0x00#8)) =
      [false, false, false, false, false, false, false, true] ∧
    ∀ r ∈ opcodeTable, r.matchesWord (controlWord 0x03#8 0x00#8 0x00#8 0x00#8) = false := by
  refine ⟨by rw [List.length_replicate], by decide, by decide, by decide, by decide, by decide⟩

theorem test_witness_ClassifyIsTheRulesChain :
    (List.replicate 249 0x00#8).length ≤ 249 ∧
    (32767#15 : SeqNum).toNat = ((0xFF#8 : Octet).toNat <<< 7) ||| ((0xFE#8 : Octet).toNat >>> 1) ∧
    (0#15 : SeqNum).toNat = ((0x00#8 : Octet).toNat <<< 7) ||| ((0x00#8 : Octet).toNat >>> 1) := by
  refine ⟨by rw [List.length_replicate], by decide, by decide⟩

theorem test_witness_EncodeIsTheEightEquations : (Instr.i 0#15 0#15 (List.replicate 249 0#8)).wf = true :=
  test_wf_accepts_249_octets _ _ _

theorem test_witness_EncodedHeaderAndReservedBits :
    (Instr.i 0#15 0#15 (List.replicate 249 0#8)).wf = true ∧ (Instr.s 0#15).wf = true ∧ Instr.startdtAct.wf = true ∧
    kindCode (.i 0#15 0#15 (List.replicate 249 0#8)) = 0#2 ∧ kindCode (.s 0#15) = 1#2 ∧ kindCode .startdtAct = 3#2 :=
  ⟨test_wf_accepts_249_octets _ _ _, rfl, rfl, rfl, rfl, rfl⟩

theorem test_witness_EncodeSplitsInOneWay :
    (Instr.s 0#15).wf = true ∧ encode (.s 0#15) = encode (.s 0#15) ++ [] ∧
    ([.s 0#15, .startdtAct] : List Instr).flatMap encode = ([.s 0#15, .startdtAct] : List Instr).flatMap encode := by
  decide

theorem test_witness_ErrorsAreExactlyTheListed :
    decodeApdu [0x69#8] = .error .invalidStartByte 0x69#8 ∧ decodeApdu [0x68#8, 0xFE#8] = .error .frameTooLarge 0xFE#8 ∧
    decodeApdu [0x68#8, 0x03#8] = .error .frameTooShort 0x03#8 ∧
    decodeApdu [0x68#8, 0x04#8, 0x03#8, 0#8, 0#8, 0#8] = .error .invalidControlField 0x03#8 ∧
    decodeApdu [0x68#8, 0x05#8, 0x01#8, 0#8, 0#8, 0#8, 0#8] = .error .unexpectedPayload 0x05#8 := by
  decide

/-! ## Witnesses: codes, outputs, reset -/

theorem test_witness_CodesMirrorTheWireBits :
    ufuncFrame 0#3 = some .startdtAct ∧ ufuncFrame 5#3 = some .testfrCon ∧
    (encodeBody .testfrCon).head? = some 0x83#8 ∧ (encodeBody (.s 0#15)).head? = some 0x01#8 ∧
    (encodeBody (.i 127#15 0#15 [])).head? = some 0xFE#8 := by
  decide

theorem test_witness_StatusOutputsFollowTheState :
    (Inv (rxAt .err 0#8 .rxByte) ∧ Inv (txAt .err (desc 1#2 0#3 0#15 0#15 0#8))) ∧
    ((sendAt 0 .txByte).txBuf.read (sendAt 0 .txByte).txIdx.toNat = some 0x68#8 ∧ Inv (sendAt 0 .txByte) ∧
      (sendAt 0 .txByte).txValid = true) ∧
    ((sendAt 2 .txByte).txBuf.read (sendAt 2 .txByte).txIdx.toNat = some 0x83#8 ∧ Inv (sendAt 5 .txByte) ∧
      (sendAt 5 .txByte).txValid = true) :=
  ⟨⟨inv_rxAt _ _ (by decide) (by decide), inv_txAt _ (by decide)⟩, ⟨rfl, inv_sendAt _ (by decide), rfl⟩, rfl,
    inv_sendAt _ (by decide), rfl⟩

theorem test_witness_FrameOutputsPresentTheHeldFrame :
    Inv (heldAt (fullBody ++ [0xAA#8]) .rxByte) ∧ (heldAt (fullBody ++ [0xAA#8]) .rxByte).frmValid = true ∧
    Inv (heldAt [0x07#8, 0#8, 0#8, 0#8] .rxByte) ∧ (heldAt [0x07#8, 0#8, 0#8, 0#8] .rxByte).frmValid = true := by
  have hl : (fullBody ++ [0xAA#8]).length = 253 := by rw [List.length_append, fullBody_length, List.length_singleton]
  exact ⟨inv_heldAt _ (by omega) (by omega) (decodeBody_fullBody _), rfl,
    inv_heldAt (f := .startdtAct) _ (by decide) (by decide) (by decide), rfl⟩

theorem test_witness_ResetLeavesTheListedValues :
    (rxAt .err 0#8 .reset).schedule.head? = some .reset ∧
    step (rxAt .err 0#8 .reset) = .next (rxAt .err 0#8 .reset).resetBlock.retire :=
  ⟨rfl, rfl⟩

theorem test_witness_ResetIsTheOnlyWayBack :
    (sendAt 3 .reset).schedule.head? = some .reset ∧
    (Inv (rxAt .err 0x68#8 .rxByte) ∧ (rxAt .err 0x68#8 .rxByte).schedule.head? ≠ some .reset ∧
      (rxAt .err 0x68#8 .rxByte).rxErr ≠ .none ∧
      step (rxAt .err 0x68#8 .rxByte) = .next (rxAt .err 0x68#8 .rxByte).consume.retire) ∧
    (Inv (txAt .err (desc 1#2 0#3 0#15 0#15 0#8)) ∧ (txAt .err (desc 1#2 0#3 0#15 0#15 0#8)).txErr ≠ .none ∧
      step (txAt .err (desc 1#2 0#3 0#15 0#15 0#8)) =
        .next (txAt .err (desc 1#2 0#3 0#15 0#15 0#8)).dropDescriptor.retire) :=
  ⟨rfl, ⟨inv_rxAt _ _ (by decide) (by decide), by decide, by decide, rfl⟩, ⟨inv_txAt _ (by decide), by decide, rfl⟩⟩

theorem test_witness_NoRuleBeforeTheFirstReset :
    ({ rxAt .start 0x68#8 .rxByte with resetDone := false } : State).resetDone = false ∧
    ({ rxAt .start 0x68#8 .rxByte with resetDone := false } : State).schedule.head? = some .rxByte ∧
    EventKind.rxByte ≠ .reset :=
  ⟨rfl, rfl, by decide⟩

/-! ## Witnesses: the step -/

theorem test_witness_StepRunsTheReceivedFrame :
    (RxLastAtHand 0x00#8 [0x07#8, 0#8, 0#8, 0#8] (rxBodyAt 4#8 [0x07#8, 0#8, 0#8] 0x00#8) ∧
      decodeBody [0x07#8, 0#8, 0#8, 0#8] = some (.ok .startdtAct)) ∧
    ∃ f, RxLastAtHand 0x68#8 (fullBody ++ [0x68#8]) (rxBodyAt 253#8 fullBody 0x68#8) ∧
      decodeBody (fullBody ++ [0x68#8]) = some (.ok f) :=
  ⟨⟨rxLast_rxBodyAt (q := [0x07#8, 0#8, 0#8]) _ (by decide) (by decide), by decide⟩, _, rxLast_full _,
    decodeBody_fullBody _⟩

theorem test_witness_StepRunsTheDescriptorsFrame :
    (TxAtHand (desc 3#2 5#3 0#15 0#15 0#8) (txAt .idle (desc 3#2 5#3 0#15 0#15 0#8)) ∧
      (desc 3#2 5#3 0#15 0#15 0#8).denote = some .testfrCon) ∧
    ∃ f, TxAtHand (desc 0#2 0#3 0#15 0#15 249#8) (txAt .idle (desc 0#2 0#3 0#15 0#15 249#8)) ∧
      (desc 0#2 0#3 0#15 0#15 249#8).denote = some f :=
  ⟨⟨⟨rfl, rfl, rfl⟩, rfl⟩, _, ⟨rfl, rfl, rfl⟩, rfl⟩

theorem test_witness_PlacedWordsRunNext :
    decodeTableWord 32 0x83 = some .testfrCon ∧ decodeTableWord 40 0xAA00000000 = some (.i 0#15 0#15 [0xAA#8]) := by decide

/-! ## Witnesses: the decoder -/

theorem test_witness_DecoderEventsEnabled :
    (Inv (rxAt .start 0x68#8 .rxByte) ∧ (rxAt .start 0x68#8 .rxByte).resetDone = true ∧
      (rxAt .start 0x68#8 .rxByte).inbound.head? = some 0x68#8 ∧
      (rxAt .start 0x68#8 .rxByte).schedule.head? = some .rxByte ∧ (rxAt .start 0x68#8 .rxByte).rxState ≠ .hold) ∧
    (Inv (heldAt [0x07#8, 0#8, 0#8, 0#8] .rxByte) ∧
      (heldAt [0x07#8, 0#8, 0#8, 0#8] .rxByte).inbound.head? = some 0x68#8 ∧
      (heldAt [0x07#8, 0#8, 0#8, 0#8] .rxByte).schedule.head? = some .rxByte ∧
      step (heldAt [0x07#8, 0#8, 0#8, 0#8] .rxByte) = .next (heldAt [0x07#8, 0#8, 0#8, 0#8] .rxByte).retire) ∧
    (Inv (heldAt [0x07#8, 0#8, 0#8, 0#8] .frameTake) ∧
      (heldAt [0x07#8, 0#8, 0#8, 0#8] .frameTake).schedule.head? = some .frameTake) ∧
    (Inv (rxAt .len 0x04#8 .frameTake) ∧ (rxAt .len 0x04#8 .frameTake).inbound.head? = some 0x04#8 ∧
      (rxAt .len 0x04#8 .frameTake).rxState ≠ .hold ∧
      step (rxAt .len 0x04#8 .frameTake) = .next (rxAt .len 0x04#8 .frameTake).retire) :=
  ⟨⟨inv_rxAt _ _ (by decide) (by decide), rfl, rfl, rfl, by decide⟩,
    ⟨inv_heldAt (f := .startdtAct) _ (by decide) (by decide) (by decide), rfl, rfl, rfl⟩,
    ⟨inv_heldAt (f := .startdtAct) _ (by decide) (by decide) (by decide), rfl⟩,
    inv_rxAt _ _ (by decide) (by decide), rfl, by decide, rfl⟩

theorem test_witness_StartOctetRule :
    RxAtHand 0x68#8 (rxAt .start 0x68#8 .rxByte) ∧ RxAtHand 0x69#8 (rxAt .start 0x69#8 .rxByte) ∧
    (rxAt .start 0x68#8 .rxByte).rxState = .start :=
  ⟨⟨rfl, rfl, rfl⟩, ⟨rfl, rfl, rfl⟩, rfl⟩

theorem test_witness_LengthOctetRule :
    RxAtHand 0x03#8 (rxAt .len 0x03#8 .rxByte) ∧ RxAtHand 0x04#8 (rxAt .len 0x04#8 .rxByte) ∧
    RxAtHand 0xFD#8 (rxAt .len 0xFD#8 .rxByte) ∧ RxAtHand 0xFE#8 (rxAt .len 0xFE#8 .rxByte) ∧
    (rxAt .len 0x03#8 .rxByte).rxState = .len :=
  ⟨⟨rfl, rfl, rfl⟩, ⟨rfl, rfl, rfl⟩, ⟨rfl, rfl, rfl⟩, ⟨rfl, rfl, rfl⟩, rfl⟩

theorem test_witness_BodyOctetRule :
    (RxAtHand 0x68#8 (rxBodyAt 4#8 [0x07#8, 0#8] 0x68#8) ∧ (rxBodyAt 4#8 [0x07#8, 0#8] 0x68#8).rxState = .body ∧
      (rxBodyAt 4#8 [0x07#8, 0#8] 0x68#8).rxLen.toNat ≤ 253 ∧
      (rxBodyAt 4#8 [0x07#8, 0#8] 0x68#8).rxCnt.toNat + 1 < (rxBodyAt 4#8 [0x07#8, 0#8] 0x68#8).rxLen.toNat) ∧
    (RxAtHand 0x68#8 (rxBodyAt 253#8 [] 0x68#8) ∧ (rxBodyAt 253#8 [] 0x68#8).rxLen.toNat ≤ 253 ∧
      (rxBodyAt 253#8 [] 0x68#8).rxCnt.toNat + 1 < (rxBodyAt 253#8 [] 0x68#8).rxLen.toNat) :=
  ⟨⟨⟨rfl, rfl, rfl⟩, rfl, by decide, by decide⟩, ⟨rfl, rfl, rfl⟩, by decide, by decide⟩

theorem test_witness_LastOctetRule :
    (RxInv (rxBodyAt 4#8 [0x01#8, 0#8, 0#8] 0#8) ∧
      RxLastAtHand 0#8 [0x01#8, 0#8, 0#8, 0#8] (rxBodyAt 4#8 [0x01#8, 0#8, 0#8] 0#8) ∧
      decodeBody [0x01#8, 0#8, 0#8, 0#8] = some (.ok (.s 0#15))) ∧
    (RxInv (rxBodyAt 4#8 [0x03#8, 0#8, 0#8] 0#8) ∧
      RxLastAtHand 0#8 [0x03#8, 0#8, 0#8, 0#8] (rxBodyAt 4#8 [0x03#8, 0#8, 0#8] 0#8) ∧
      decodeBody [0x03#8, 0#8, 0#8, 0#8] = some (.err .invalidControlField 0x03#8)) ∧
    RxInv (rxBodyAt 253#8 fullBody 0#8) ∧ RxLastAtHand 0#8 (fullBody ++ [0#8]) (rxBodyAt 253#8 fullBody 0#8) :=
  ⟨⟨(inv_rxBodyAt _ (by decide) (by decide) (by decide)).1,
      rxLast_rxBodyAt (q := [0x01#8, 0#8, 0#8]) _ (by decide) (by decide), by decide⟩,
    ⟨(inv_rxBodyAt _ (by decide) (by decide) (by decide)).1,
      rxLast_rxBodyAt (q := [0x03#8, 0#8, 0#8]) _ (by decide) (by decide), by decide⟩,
    (inv_rxBodyAt _ (by decide) (by decide) (by rw [fullBody_length]; decide)).1, rxLast_full _⟩

theorem test_witness_HeldFrameBlocksTheStream :
    (heldAt [0x07#8, 0#8, 0#8, 0#8] .rxByte).rxState = .hold ∧
    step (heldAt [0x07#8, 0#8, 0#8, 0#8] .rxByte) = .next (heldAt [0x07#8, 0#8, 0#8, 0#8] .rxByte).retire ∧
    (∃ t, step (heldAt [0x07#8, 0#8, 0#8, 0#8] .frameTake) = .next t ∧ t.rxState ≠ .hold) :=
  ⟨rfl, rfl, _, rfl, by decide⟩

theorem test_witness_FrameTakeRule :
    RxInv (heldAt [0x07#8, 0#8, 0#8, 0#8] .frameTake) ∧ (heldAt [0x07#8, 0#8, 0#8, 0#8] .frameTake).resetDone = true ∧
    (heldAt [0x07#8, 0#8, 0#8, 0#8] .frameTake).schedule.head? = some .frameTake ∧
    (heldAt [0x07#8, 0#8, 0#8, 0#8] .frameTake).rxState = .hold :=
  ⟨(inv_heldAt (f := .startdtAct) _ (by decide) (by decide) (by decide)).1, rfl, rfl, rfl⟩

theorem test_witness_FailedDecoderDiscards :
    (rxAt .err 0x68#8 .rxByte).rxState = .err ∧ RxAtHand 0x68#8 (rxAt .err 0x68#8 .rxByte) ∧
    (rxAt .err 0x68#8 .rxByte).schedule.head? ≠ some .reset ∧
    step (rxAt .err 0x68#8 .rxByte) = .next (rxAt .err 0x68#8 .rxByte).consume.retire :=
  ⟨rfl, ⟨rfl, rfl, rfl⟩, by decide, rfl⟩

theorem test_witness_NoResynchronisation :
    ∃ t u, RxAtHand 0x00#8 { rxAt .start 0x00#8 .rxByte with inbound := [0x00#8, 0x68#8], schedule := [.rxByte, .rxByte] } ∧
      step { rxAt .start 0x00#8 .rxByte with inbound := [0x00#8, 0x68#8], schedule := [.rxByte, .rxByte] } = .next t ∧
      EventKind.reset ∉ t.schedule ∧ runSteps 1 t = .next u :=
  ⟨_, _, ⟨rfl, rfl, rfl⟩, rfl, by decide, rfl⟩

theorem test_witness_BodyOctetsAreData :
    (RxInv (rxBodyAt 253#8 [] 0x68#8) ∧ RxAtHand 0x68#8 (rxBodyAt 253#8 [] 0x68#8)) ∧
    (RxInv (rxBodyAt 253#8 fullBody 0x68#8) ∧ RxAtHand 0x68#8 (rxBodyAt 253#8 fullBody 0x68#8) ∧
      (rxBodyAt 253#8 fullBody 0x68#8).rxState = .body) :=
  ⟨⟨(inv_rxBodyAt _ (by decide) (by decide) (by decide)).1, ⟨rfl, rfl, rfl⟩⟩,
    (inv_rxBodyAt _ (by decide) (by decide) (by rw [fullBody_length]; decide)).1, ⟨rfl, rfl, rfl⟩, rfl⟩

theorem test_witness_DecoderTransitionTable :
    (RxInv (rxAt .start 0x68#8 .rxByte) ∧ RxAtHand 0x68#8 (rxAt .start 0x68#8 .rxByte)) ∧
    (RxInv (rxAt .len 0x04#8 .rxByte) ∧ RxAtHand 0x04#8 (rxAt .len 0x04#8 .rxByte)) ∧
    (RxInv (rxBodyAt 4#8 [0x07#8, 0#8] 0#8) ∧ RxAtHand 0#8 (rxBodyAt 4#8 [0x07#8, 0#8] 0#8)) ∧
    (RxInv (rxBodyAt 4#8 [0x07#8, 0#8, 0#8] 0#8) ∧
      RxLastAtHand 0#8 [0x07#8, 0#8, 0#8, 0#8] (rxBodyAt 4#8 [0x07#8, 0#8, 0#8] 0#8) ∧
      decodeBody [0x07#8, 0#8, 0#8, 0#8] = some (.ok .startdtAct)) ∧
    (RxInv (rxAt .err 0x68#8 .rxByte) ∧ RxAtHand 0x68#8 (rxAt .err 0x68#8 .rxByte)) ∧
    (RxInv (heldAt [0x07#8, 0#8, 0#8, 0#8] .frameTake) ∧ (heldAt [0x07#8, 0#8, 0#8, 0#8] .frameTake).resetDone = true) ∧
    (rxAt .err 0x68#8 .reset).schedule.head? = some .reset ∧
    ∃ t, step (rxAt .len 0xFE#8 .rxByte) = .next t ∧ t.rxState ≠ (rxAt .len 0xFE#8 .rxByte).rxState :=
  ⟨⟨(inv_rxAt _ _ (by decide) (by decide)).1, ⟨rfl, rfl, rfl⟩⟩, ⟨(inv_rxAt _ _ (by decide) (by decide)).1, ⟨rfl, rfl, rfl⟩⟩,
    ⟨(inv_rxBodyAt _ (by decide) (by decide) (by decide)).1, ⟨rfl, rfl, rfl⟩⟩,
    ⟨(inv_rxBodyAt _ (by decide) (by decide) (by decide)).1,
      rxLast_rxBodyAt (q := [0x07#8, 0#8, 0#8]) _ (by decide) (by decide), by decide⟩,
    ⟨(inv_rxAt _ _ (by decide) (by decide)).1, ⟨rfl, rfl, rfl⟩⟩,
    ⟨(inv_heldAt (f := .startdtAct) _ (by decide) (by decide) (by decide)).1, rfl⟩, rfl, _, rfl, by decide⟩

theorem test_witness_DecoderErrorEntry :
    (∃ t, (rxAt .start 0x69#8 .rxByte).rxState ≠ .err ∧ step (rxAt .start 0x69#8 .rxByte) = .next t ∧ t.rxState = .err) ∧
    ∃ t, (rxBodyAt 4#8 [0x03#8, 0#8, 0#8] 0#8).rxState ≠ .err ∧
      step (rxBodyAt 4#8 [0x03#8, 0#8, 0#8] 0#8) = .next t ∧ t.rxState = .err :=
  ⟨⟨_, by decide, rfl, rfl⟩, _, by decide, rfl, rfl⟩

theorem test_witness_ReceiveNumberedFrame :
    (RxLastAtHand 0x68#8 (0x00#8 :: 0x00#8 :: 0x00#8 :: 0x00#8 :: (List.replicate 248 0x55#8 ++ [0x68#8]))
        (rxBodyAt 253#8 fullBody 0x68#8) ∧ (0x00#8 : Octet).getLsbD 0 = false) ∧
    RxLastAtHand 0x00#8 [0x00#8, 0x00#8, 0x01#8, 0x00#8] (rxBodyAt 4#8 [0x00#8, 0x00#8, 0x01#8] 0x00#8) ∧
    (0x01#8 : Octet).getLsbD 0 = true :=
  ⟨⟨rxLast_full _, rfl⟩, rxLast_rxBodyAt (q := [0x00#8, 0x00#8, 0x01#8]) _ (by decide) (by decide), rfl⟩

theorem test_witness_ReceiveAcknowledgeFrame :
    ((0x01#8 : Octet).getLsbD 0 = true ∧ (0x01#8 : Octet).getLsbD 1 = false) ∧
    RxLastAtHand 0xFF#8 [0x01#8, 0x00#8, 0xFE#8, 0xFF#8] (rxBodyAt 4#8 [0x01#8, 0x00#8, 0xFE#8] 0xFF#8) ∧
    RxLastAtHand 0x00#8 [0x05#8, 0x00#8, 0x00#8, 0x00#8] (rxBodyAt 4#8 [0x05#8, 0x00#8, 0x00#8] 0x00#8) ∧
    RxLastAtHand 0x00#8 [0x01#8, 0x00#8, 0x00#8, 0x00#8, 0x00#8]
      (rxBodyAt 5#8 [0x01#8, 0x00#8, 0x00#8, 0x00#8] 0x00#8) :=
  ⟨⟨rfl, rfl⟩, rxLast_rxBodyAt (q := [0x01#8, 0x00#8, 0xFE#8]) _ (by decide) (by decide),
    rxLast_rxBodyAt (q := [0x05#8, 0x00#8, 0x00#8]) _ (by decide) (by decide),
    rxLast_rxBodyAt (q := [0x01#8, 0x00#8, 0x00#8, 0x00#8]) _ (by decide) (by decide)⟩

theorem test_witness_ReceiveControlFrame :
    (∀ p ∈ [0x07#8, 0x0B#8, 0x13#8, 0x23#8, 0x43#8, 0x83#8],
      RxLastAtHand 0#8 [p, 0#8, 0#8, 0#8] (rxBodyAt 4#8 [p, 0#8, 0#8] 0#8) ∧
      RxLastAtHand 0#8 [p, 0#8, 0#8, 0#8, 0#8] (rxBodyAt 5#8 [p, 0#8, 0#8, 0#8] 0#8)) ∧
    RxLastAtHand 0#8 [0x03#8, 0#8, 0#8, 0#8] (rxBodyAt 4#8 [0x03#8, 0#8, 0#8] 0#8) ∧
    (0x03#8 : Octet).getLsbD 0 = true ∧ (0x03#8 : Octet).getLsbD 1 = true ∧
    0x03#8 ∉ [0x07#8, 0x0B#8, 0x13#8, 0x23#8, 0x43#8, 0x83#8] :=
  ⟨fun p _ => ⟨rxLast_rxBodyAt (q := [p, 0#8, 0#8]) _ (by decide) rfl,
      rxLast_rxBodyAt (q := [p, 0#8, 0#8, 0#8]) _ (by decide) rfl⟩,
    rxLast_rxBodyAt (q := [0x03#8, 0#8, 0#8]) _ (by decide) (by decide), rfl, rfl, by decide⟩

theorem test_witness_ReceivedFrameChangesOnlyItsCell :
    (rxBodyAt 4#8 [0x07#8, 0#8, 0#8] 0#8).schedule.head? = some .rxByte ∧
    (rxBodyAt 4#8 [0x07#8, 0#8, 0#8] 0#8).inbound.head? = some 0#8 ∧
    (rxBodyAt 4#8 [0x07#8, 0#8, 0#8] 0#8).rxState = .body ∧
    ∃ t, exec .startdtAct (rxBodyAt 4#8 [0x07#8, 0#8, 0#8] 0#8) = .next t :=
  ⟨rfl, rfl, rfl, _, rfl⟩

/-! ## Witnesses: the encoder -/

theorem test_witness_EncoderEventsEnabled :
    (TxAtHand (desc 1#2 0#3 0#15 5#15 0#8) (txAt .idle (desc 1#2 0#3 0#15 5#15 0#8)) ∧
      (txAt .idle (desc 1#2 0#3 0#15 5#15 0#8)).txState ≠ .send) ∧
    ((sendAt 3 .txFrame).txState = .send ∧ step (sendAt 3 .txFrame) = .next (sendAt 3 .txFrame).retire ∧
      (sendAt 3 .txFrame).schedule.head? ≠ some .txByte) ∧
    (∃ t, step (sendAt 5 .txByte) = .next t ∧ t.txState ≠ .send) ∧
    (Inv (sendAt 5 .txByte) ∧ (sendAt 5 .txByte).resetDone = true ∧ (sendAt 5 .txByte).schedule.head? = some .txByte ∧
      (sendAt 5 .txByte).txState = .send) ∧
    (Inv (sendAt 0 .txByte) ∧ (sendAt 0 .txByte).txState = .send) ∧
    ((rxAt .start 0#8 .txByte).schedule.head? = some .txByte ∧ (rxAt .start 0#8 .txByte).txState ≠ .send ∧
      step (rxAt .start 0#8 .txByte) = .next (rxAt .start 0#8 .txByte).retire) :=
  ⟨⟨⟨rfl, rfl, rfl⟩, by decide⟩, ⟨rfl, rfl, by decide⟩, ⟨_, rfl, by decide⟩, ⟨inv_sendAt _ (by decide), rfl, rfl, rfl⟩,
    ⟨inv_sendAt _ (by decide), rfl⟩, rfl, by decide, rfl⟩

theorem test_witness_AcceptDescriptorRule :
    TxAtHand (desc 0#2 0#3 0#15 0#15 249#8) (txAt .idle (desc 0#2 0#3 0#15 0#15 249#8)) ∧
    (txAt .idle (desc 0#2 0#3 0#15 0#15 249#8)).txState = .idle ∧
    (∃ f, (desc 0#2 0#3 0#15 0#15 249#8).denote = some f) ∧
    (desc 1#2 0#3 0#15 0#15 0#8).denote = some (.s 0#15) :=
  ⟨⟨rfl, rfl, rfl⟩, rfl, ⟨_, rfl⟩, rfl⟩

theorem test_witness_EmitOctetRule :
    ((sendAt 5 .txByte).resetDone = true ∧ (sendAt 5 .txByte).schedule.head? = some .txByte ∧
      (sendAt 5 .txByte).txState = .send ∧ (sendAt 5 .txByte).txIdx.toNat < 255 ∧
      (sendAt 5 .txByte).txBuf.read (sendAt 5 .txByte).txIdx.toNat = some 0#8) ∧
    ((sendAt 0 .txByte).txBuf.read (sendAt 0 .txByte).txIdx.toNat = some 0x68#8) ∧
    ((sendAt 0 .txByte).txIdx = 0#8 ∧ (sendAt 0 .txByte).txLen.toNat = (encode .testfrCon).length ∧
      encode .testfrCon ≠ [] ∧ (sendAt 0 .txByte).txBuf.readRange 0 (encode .testfrCon).length = some (encode .testfrCon) ∧
      1 ≤ (encode .testfrCon).length ∧ ∀ k, k < 1 → (sendAt 0 .txByte).schedule[k]? = some .txByte) ∧
    (∀ k, k < 6 → ({ sendAt 0 .txByte with schedule := List.replicate 6 .txByte } : State).schedule[k]? = some .txByte) := by
  refine ⟨by decide, by decide, ⟨rfl, rfl, by decide, by decide, by decide, ?_⟩, by decide⟩
  decide

theorem test_witness_FailedEncoderDiscards :
    (txAt .err (desc 0#2 0#3 0#15 0#15 250#8)).txState = .err ∧
    TxAtHand (desc 0#2 0#3 0#15 0#15 250#8) (txAt .err (desc 0#2 0#3 0#15 0#15 250#8)) ∧
    (txAt .err (desc 0#2 0#3 0#15 0#15 250#8)).schedule.head? ≠ some .reset ∧
    step (txAt .err (desc 0#2 0#3 0#15 0#15 250#8)) =
      .next (txAt .err (desc 0#2 0#3 0#15 0#15 250#8)).dropDescriptor.retire :=
  ⟨rfl, ⟨rfl, rfl, rfl⟩, by decide, rfl⟩

theorem test_witness_RejectDescriptorRule :
    (TxAtHand (desc 0#2 0#3 0#15 0#15 250#8) (txAt .idle (desc 0#2 0#3 0#15 0#15 250#8)) ∧
      249 < (desc 0#2 0#3 0#15 0#15 250#8).asduLen.toNat ∧ (desc 0#2 0#3 0#15 0#15 250#8).wf = false) ∧
    (TxAtHand (desc 2#2 0#3 0#15 0#15 0#8) (txAt .idle (desc 2#2 0#3 0#15 0#15 0#8)) ∧
      (desc 2#2 0#3 0#15 0#15 0#8).wf = false) ∧
    (TxAtHand (desc 3#2 6#3 0#15 0#15 0#8) (txAt .idle (desc 3#2 6#3 0#15 0#15 0#8)) ∧
      6 ≤ (desc 3#2 6#3 0#15 0#15 0#8).ufunc.toNat ∧ (desc 3#2 6#3 0#15 0#15 0#8).wf = false) :=
  ⟨⟨⟨rfl, rfl, rfl⟩, by decide, rfl⟩, ⟨⟨rfl, rfl, rfl⟩, rfl⟩, ⟨rfl, rfl, rfl⟩, by decide, rfl⟩

theorem test_witness_DescriptorWellFormedness :
    ((desc 0#2 7#3 0#15 0#15 249#8).kind = 0#2 ∧ (desc 0#2 7#3 0#15 0#15 249#8).asduLen.toNat ≤ 249) ∧
    (desc 1#2 7#3 0#15 0#15 255#8).kind = 1#2 ∧
    ((desc 3#2 5#3 0#15 0#15 255#8).kind = 3#2 ∧ (desc 3#2 5#3 0#15 0#15 255#8).ufunc.toNat ≤ 5) := by
  decide

theorem test_witness_EncoderTransitionTable :
    TxAtHand (desc 0#2 0#3 0#15 0#15 250#8) (txAt .idle (desc 0#2 0#3 0#15 0#15 250#8)) ∧
    TxAtHand (desc 1#2 0#3 0#15 0#15 0#8) (txAt .err (desc 1#2 0#3 0#15 0#15 0#8)) ∧
    (TxInv (sendAt 4 .txByte) ∧ (sendAt 4 .txByte).resetDone = true ∧ (sendAt 4 .txByte).schedule.head? = some .txByte ∧
      (sendAt 4 .txByte).txState = .send ∧ TxInv (sendAt 5 .txByte)) ∧
    (sendAt 4 .reset).schedule.head? = some .reset ∧
    ∃ t, step (sendAt 5 .txByte) = .next t ∧ t.txState ≠ (sendAt 5 .txByte).txState :=
  ⟨⟨rfl, rfl, rfl⟩, ⟨rfl, rfl, rfl⟩, ⟨(inv_sendAt _ (by decide)).2, rfl, rfl, rfl, (inv_sendAt _ (by decide)).2⟩, rfl, _, rfl,
    by decide⟩

theorem test_witness_SendNumberedFrame :
    (TxAtHand (desc 0#2 0#3 32767#15 0#15 249#8) (txAt .idle (desc 0#2 0#3 32767#15 0#15 249#8)) ∧
      (desc 0#2 0#3 32767#15 0#15 249#8).asduOctets.length ≤ 249) ∧
    (TxAtHand (desc 0#2 0#3 0#15 0#15 250#8) (txAt .idle (desc 0#2 0#3 0#15 0#15 250#8)) ∧
      249 < (desc 0#2 0#3 0#15 0#15 250#8).asduOctets.length) := by
  rw [asduOctets_length, asduOctets_length]
  exact ⟨⟨⟨rfl, rfl, rfl⟩, by decide⟩, ⟨rfl, rfl, rfl⟩, by decide⟩

theorem test_witness_SendAcknowledgeFrame :
    TxAtHand (desc 1#2 7#3 123#15 32767#15 255#8) (txAt .idle (desc 1#2 7#3 123#15 32767#15 255#8)) ∧
    (txAt .idle (desc 1#2 7#3 123#15 32767#15 255#8)).txState = .idle :=
  ⟨⟨rfl, rfl, rfl⟩, rfl⟩

theorem test_witness_SendControlFrame :
    ∀ u ∈ [0#3, 1#3, 2#3, 3#3, 4#3, 5#3],
      TxAtHand (desc 3#2 u 1#15 1#15 255#8) (txAt .idle (desc 3#2 u 1#15 1#15 255#8)) ∧
      (txAt .idle (desc 3#2 u 1#15 1#15 255#8)).txState = .idle ∧ (desc 3#2 u 1#15 1#15 255#8).ufunc = u :=
  fun _ _ => ⟨⟨rfl, rfl, rfl⟩, rfl, rfl⟩

theorem test_witness_SentFrameChangesOnlyItsCells :
    (∃ t, exec (.s 5#15) (txAt .idle (desc 1#2 0#3 0#15 5#15 0#8)) = .next t) ∧
    (∃ t, exec (.s 5#15) (sendAt 3 .txFrame) = .next t) ∧
    (∃ t, exec (.s 5#15) (txAt .err (desc 1#2 0#3 0#15 5#15 0#8)) = .next t) ∧
    (∃ t, exec (.s 5#15) (rxAt .start 0#8 .txFrame) = .next t) ∧ (rxAt .start 0#8 .txFrame).descriptors = [] ∧
    (∃ t, exec (.i 0#15 0#15 (List.replicate 250 0#8)) (txAt .idle (desc 0#2 0#3 0#15 0#15 250#8)) = .next t) ∧
    (Instr.i 0#15 0#15 (List.replicate 250 0#8)).wf = false ∧
    (txAt .idle (desc 1#2 0#3 0#15 5#15 0#8)).schedule.head? = some .txFrame := by
  refine ⟨⟨_, rfl⟩, ⟨_, rfl⟩, ⟨_, rfl⟩, ⟨_, rfl⟩, rfl, ?_, test_wf_refuses_250_octets, rfl⟩
  rw [exec_tx _ (rest := []) rfl, sendFrame]
  simp only [txAt, acceptTx]
  exact ⟨_, if_neg (by rw [test_wf_refuses_250_octets]; decide)⟩

theorem test_witness_OversizedFrameValueIsTooLarge :
    TxAtHand (desc 0#2 0#3 0#15 0#15 250#8) (txAt .idle (desc 0#2 0#3 0#15 0#15 250#8)) ∧
    (txAt .idle (desc 0#2 0#3 0#15 0#15 250#8)).txState = .idle ∧ 249 < (List.replicate 250 0x00#8).length :=
  ⟨⟨rfl, rfl, rfl⟩, rfl, by rw [List.length_replicate]; decide⟩

/-! ## Witnesses: the whole machine -/

theorem test_witness_StepsKeepTheInvariants :
    Inv (sendAt 2 .txByte) ∧ (∃ t, step (sendAt 2 .txByte) = .next t) ∧
    Inv (rxBodyAt 4#8 [0x07#8, 0#8, 0#8] 0#8) ∧ ∃ t, step (rxBodyAt 4#8 [0x07#8, 0#8, 0#8] 0#8) = .next t :=
  ⟨inv_sendAt _ (by decide), ⟨_, rfl⟩, inv_rxBodyAt _ (by decide) (by decide) (by decide), _, rfl⟩

theorem test_witness_NoStepStops : Inv (sendAt 5 .txByte) ∧ (sendAt 5 .txByte).resetDone = true :=
  ⟨inv_sendAt _ (by decide), rfl⟩

theorem test_witness_StepsKeepTheBuffersCanonical :
    (rxBodyAt 4#8 [0x07#8, 0#8, 0#8] 0#8).rxBuf.wf = true ∧ (rxBodyAt 4#8 [0x07#8, 0#8, 0#8] 0#8).rxBuf.within 253 = true ∧
    (rxBodyAt 4#8 [0x07#8, 0#8, 0#8] 0#8).txBuf.wf = true ∧ (rxBodyAt 4#8 [0x07#8, 0#8, 0#8] 0#8).txBuf.within 255 = true ∧
    ∃ t, step (rxBodyAt 4#8 [0x07#8, 0#8, 0#8] 0#8) = .next t :=
  ⟨rfl, rfl, rfl, rfl, _, rfl⟩

theorem test_witness_OutboundStaysWholeApdus :
    (WholeApdus [] (sendAt 5 .txByte) ∧ (∃ t, step (sendAt 5 .txByte) = .next t) ∧
      (sendAt 5 .txByte).schedule.head? ≠ some .reset) ∧
    (WholeApdus [0x00#8] { rxAt .start 0#8 .reset with outbound := [0x00#8] } ∧
      ({ rxAt .start 0#8 .reset with outbound := [0x00#8] } : State).txState ≠ .send) := by
  refine ⟨⟨⟨[], by simp, ?_⟩, ⟨_, rfl⟩, by decide⟩, ⟨[], by simp, ?_⟩, by decide⟩
  · rw [if_pos (show (sendAt 5 .txByte).txState = .send from rfl)]
    exact ⟨.testfrCon, rfl, rfl, rfl, by decide, rfl⟩
  · rw [if_neg (by decide)]
    rfl

theorem test_witness_HalvesDoNotInteract :
    (SameRx (rxAt .start 0x68#8 .rxByte) { rxAt .start 0x68#8 .rxByte with txState := .err } ∧
      ∃ t, step (rxAt .start 0x68#8 .rxByte) = .next t) ∧
    (SameTx (sendAt 2 .txByte) { sendAt 2 .txByte with rxState := .err } ∧ ∃ t, step (sendAt 2 .txByte) = .next t) := by
  refine ⟨⟨?_, _, rfl⟩, ?_, _, rfl⟩
  · simp [SameRx]
  · simp [SameTx]

theorem test_witness_ErrorsStayUntilReset :
    ((rxAt .err 0x68#8 .rxByte).schedule.head? ≠ some .reset ∧ ∃ t, step (rxAt .err 0x68#8 .rxByte) = .next t) ∧
    ((txAt .err (desc 1#2 0#3 0#15 0#15 0#8)).schedule.head? ≠ some .reset ∧
      ∃ t, step (txAt .err (desc 1#2 0#3 0#15 0#15 0#8)) = .next t) ∧
    ((sendAt 2 .txByte).schedule.head? = some .txByte ∧ ∃ t, step (sendAt 2 .txByte) = .next t) ∧
    ((rxAt .start 0x68#8 .rxByte).schedule.head? = some .rxByte ∧ ∃ t, step (rxAt .start 0x68#8 .rxByte) = .next t) :=
  ⟨⟨by decide, _, rfl⟩, ⟨by decide, _, rfl⟩, ⟨rfl, _, rfl⟩, rfl, _, rfl⟩

/-- The inputs of a cycle in which an octet is offered and the next octet out is taken. -/
def portsAt (rst : Bool) : PortIn where
  rst := rst
  rxData := 0x68#8
  rxValid := true
  frmTake := false
  txcValid := false
  txc := desc 1#2 0#3 0#15 0#15 0#8
  txReady := true

theorem test_witness_CycleEventsCommute :
    (Inv (sendAt 2 .txByte) ∧ (sendAt 2 .txByte).resetDone = true ∧ (portsAt true).rst = true ∧
      (portsAt false).rst = false ∧ cycleEvents (portsAt false) (sendAt 2 .txByte) = [.rxByte, .txByte]) ∧
    ((heldAt [0x07#8, 0#8, 0#8, 0#8] .rxByte).rxState = .hold ∧ (sendAt 2 .txByte).rxState ≠ .hold) ∧
    ((sendAt 2 .txByte).txState = .send ∧ (heldAt [0x07#8, 0#8, 0#8, 0#8] .rxByte).txState ≠ .send) ∧
    rxEventOf { portsAt false with frmTake := true } (heldAt [0x07#8, 0#8, 0#8, 0#8] .rxByte) = [.frameTake] ∧
    txEventOf { portsAt false with txcValid := true } (rxAt .start 0#8 .rxByte) = [.txFrame] :=
  ⟨⟨inv_sendAt _ (by decide), rfl, rfl, rfl, rfl⟩, ⟨rfl, by decide⟩, ⟨rfl, by decide⟩, rfl, rfl⟩

theorem test_witness_PartialFramesResume :
    State.reset.schedule = [] ∧ State.reset.inbound = [] ∧ State.reset.resetDone = true ∧ State.reset.rxState = .start ∧
    State.reset.rxErr = .none ∧ Instr.startdtAct.wf = true ∧
    encode .startdtAct = [0x68#8, 0x04#8, 0x07#8, 0x00#8] ++ [0x00#8, 0x00#8] ∧ ([0x00#8, 0x00#8] : List Octet) ≠ [] := by
  decide

theorem test_witness_LoopbackDeliversTheFrame :
    (Instr.i 0#15 0#15 (List.replicate 249 0#8)).wf = true ∧ State.reset.schedule = [] ∧ State.reset.inbound = [] ∧
    State.reset.resetDone = true ∧ State.reset.rxState = .start :=
  ⟨test_wf_accepts_249_octets _ _ _, rfl, rfl, rfl, rfl⟩

theorem test_witness_DecoderAcceptsExactlyTheEncodings :
    State.reset.schedule = [] ∧ State.reset.inbound = [] ∧ State.reset.resetDone = true ∧ State.reset.rxState = .start ∧
    Instr.testfrCon.wf = true := by
  decide

theorem test_witness_StreamPutsOutItsFrames :
    (∀ f ∈ [Instr.testfrAct, .i 32767#15 0#15 [0x68#8]], f.wf = true) ∧ State.reset.schedule = [] ∧
    State.reset.inbound = [] ∧ State.reset.resetDone = true ∧ State.reset.rxState = .start ∧
    decodeApdu [0x68#8, 0xFD#8] = .needMore ∧ decodeApdu [0x00#8, 0x68#8, 0x04#8] = .error .invalidStartByte 0x00#8 := by
  decide

theorem test_witness_EncoderStreamLoopsBack :
    [desc 3#2 1#3 0#15 0#15 0#8, desc 1#2 0#3 0#15 5#15 0#8].map Descriptor.denote =
      [Instr.startdtCon, .s 5#15].map some ∧
    State.reset.schedule = [] ∧ State.reset.descriptors = [] ∧ State.reset.inbound = [] ∧ State.reset.resetDone = true ∧
    State.reset.txState = .idle ∧ State.reset.rxState = .start :=
  ⟨rfl, rfl, rfl, rfl, rfl, rfl, rfl⟩

theorem test_witness_ConnectionsAreIndependent :
    [State.reset, rxAt .start 0x69#8 .rxByte][1]? = some (rxAt .start 0x69#8 .rxByte) ∧
    ∃ cs, stepCopy 1 [State.reset, rxAt .start 0x69#8 .rxByte] = .next cs :=
  ⟨rfl, _, rfl⟩

end Sys2Proof.Tests
end

section
/-! PROOFS. The statements of 10_state.md: the invariants (R28, R34) along every step, the outputs (R35 to R37, R40), Reset
(R42), what a frame of any kind leaves unchanged, and the independence of the two halves (R20, R41). -/

namespace Sys2Proof.Machine

variable {s t : State}

/-! ## The octets of the header -/

/-- The two arms of R101. -/
theorem startOctet_cases (b : Octet) (s : State) :
    startOctet b s = s.toRxLen ∨ startOctet b s = s.raiseRx .invalidStartByte b := by
  unfold startOctet
  split
  · exact .inl rfl
  · exact .inr rfl

/-- The three arms of R102, with the bounds a body begins under. -/
theorem lengthOctet_cases (b : Octet) (s : State) :
    lengthOctet b s = s.raiseRx .frameTooLarge b ∨ lengthOctet b s = s.raiseRx .frameTooShort b ∨
    (4 ≤ b.toNat ∧ b.toNat ≤ 253 ∧ lengthOctet b s = s.beginBody b) := by
  unfold lengthOctet
  split
  · exact .inl rfl
  · rename_i hmax
    split
    · exact .inr (.inl rfl)
    · rename_i hmin
      simp only [Config.maxLen, Config.minLen, not_lt] at hmax hmin
      exact .inr (.inr ⟨hmin, hmax, rfl⟩)

@[simp] theorem startOctet_rxBuf (b : Octet) (s : State) : (startOctet b s).rxBuf = s.rxBuf := by
  rcases startOctet_cases b s with he | he <;> simp [he]

@[simp] theorem lengthOctet_rxBuf (b : Octet) (s : State) : (lengthOctet b s).rxBuf = s.rxBuf := by
  rcases lengthOctet_cases b s with he | he | ⟨_, _, he⟩ <;> simp [he]

@[simp] theorem startOctet_txBuf (b : Octet) (s : State) : (startOctet b s).txBuf = s.txBuf := by
  rcases startOctet_cases b s with he | he <;> simp [he]

@[simp] theorem lengthOctet_txBuf (b : Octet) (s : State) : (lengthOctet b s).txBuf = s.txBuf := by
  rcases lengthOctet_cases b s with he | he | ⟨_, _, he⟩ <;> simp [he]

/-! ## Canonical buffers -/

/-- Everything a step can do to `rx_buf`: nothing, or one octet into an existing cell (R103). -/
theorem step_rxBuf (h : step s = .next t) :
    t.rxBuf = s.rxBuf ∨ ∃ b, s.rxCnt.toNat < 253 ∧ t.rxBuf = s.rxBuf.write s.rxCnt.toNat b := by
  cases step_transition h with
  | rxMore _ _ _ _ hlt | rxFrame _ _ _ _ hlt | rxMalformed _ _ _ _ hlt => exact .inr ⟨_, hlt, rfl⟩
  | rxStart | rxLen => exact .inl (by simp)
  | _ => exact .inl rfl

/-- Everything a step can do to `tx_buf`: nothing, or the octets of a well-formed frame from cell 0 up (R131). -/
theorem step_txBuf (h : step s = .next t) :
    t.txBuf = s.txBuf ∨ ∃ f : Instr, f.wf = true ∧ t.txBuf = s.txBuf.writeAll 0 (encode f) := by
  cases step_transition h with
  | txLoad _ _ _ _ hf => exact .inr ⟨_, denote_wf hf, rfl⟩
  | rxStart | rxLen => exact .inl (by simp)
  | _ => exact .inl rfl

theorem encode_length_le {f : Instr} (hf : f.wf = true) : (encode f).length ≤ 255 := by
  rw [wf_iff] at hf
  rw [encode_length]
  omega

theorem step_keeps_rxBuf_canonical (h : step s = .next t) (hw : s.rxBuf.wf = true) (hn : s.rxBuf.within 253 = true) :
    t.rxBuf.wf = true ∧ t.rxBuf.within 253 = true := by
  rcases step_rxBuf h with he | ⟨b, hlt, he⟩ <;> rw [he]
  · exact ⟨hw, hn⟩
  · exact ⟨Memory.wf_write hw, Memory.within_write hn hlt⟩

theorem step_keeps_txBuf_canonical (h : step s = .next t) (hw : s.txBuf.wf = true) (hn : s.txBuf.within 255 = true) :
    t.txBuf.wf = true ∧ t.txBuf.within 255 = true := by
  rcases step_txBuf h with he | ⟨f, hf, he⟩ <;> rw [he]
  · exact ⟨hw, hn⟩
  · exact ⟨Memory.wf_writeAll _ hw, Memory.within_writeAll _ hn (by simpa using encode_length_le hf)⟩

/-- Settles O49: a step leaves a buffer alone or writes cells it has. -/
theorem stepsKeepTheBuffersCanonical : Obligations.StepsKeepTheBuffersCanonical := by
  intro s t hrw hrn htw htn h
  obtain ⟨hrw', hrn'⟩ := step_keeps_rxBuf_canonical h hrw hrn
  exact ⟨hrw', hrn', step_keeps_txBuf_canonical h htw htn⟩

/-! ## The decoder's invariant -/

/-- An 8-bit counter below its last value counts up by one. -/
theorem toNat_add_one {x : BitVec 8} (h : x.toNat < 255) : (x + 1#8).toNat = x.toNat + 1 :=
  BitVec.toNat_add_of_lt (show x.toNat + 1 < 2 ^ 8 by omega)

/-- `classify` reports no error under the code of "no error" (R105, R160). -/
theorem classify_err_ne_none {cf1 cf2 cf3 cf4 : Octet} {asdu : List Octet} {e : ErrCode} {info : Octet}
    (h : classify cf1 cf2 cf3 cf4 asdu = .err e info) : e ≠ .none := by
  rintro rfl
  unfold classify at h
  split at h
  · unfold classifyI at h
    split at h <;> cases h
  · split at h
    · unfold classifyS at h
      split_ifs at h <;> cases h
    · unfold classifyU at h
      split at h
      · cases h
      · split at h
        · cases h
        · split at h <;> cases h

theorem decodeBody_err_ne_none {body : List Octet} {e : ErrCode} {info : Octet}
    (h : decodeBody body = some (.err e info)) : e ≠ .none := by
  unfold decodeBody at h
  split at h
  · split at h
    · exact classify_err_ne_none (Option.some.inj h)
    · cases h
  · cases h

/-- Where no body is collected and no frame held, the invariant is about the buffer and the error registers only. -/
theorem RxInv.of_no_frame (hw : t.rxBuf.wf = true) (hn : t.rxBuf.within 253 = true) (hb : t.rxState ≠ .body)
    (hh : t.rxState ≠ .hold) (he : t.rxErr = .none ↔ t.rxState ≠ .err) : RxInv t :=
  ⟨hw, hn, fun h => absurd h hb, fun h => absurd h hb, fun h => absurd h hh, he⟩

theorem RxInv.of_raised (hw : t.rxBuf.wf = true) (hn : t.rxBuf.within 253 = true) (hst : t.rxState = .err)
    (he : t.rxErr ≠ .none) : RxInv t :=
  .of_no_frame hw hn (by simp [hst]) (by simp [hst]) (by simp [hst, he])

/-- The length octet begins a body of which nothing is written yet (R102). -/
theorem RxInv.beginBody {b : Octet} (hi : RxInv s) (hst : s.rxState ≠ .err) (h4 : 4 ≤ b.toNat) (h253 : b.toNat ≤ 253) :
    RxInv (s.beginBody b) where
  bufWf := hi.bufWf
  bufWithin := hi.bufWithin
  body _ := ⟨h4, h253, by simp; omega⟩
  bodyWritten _ a ha := by simp at ha
  hold h := by simp at h
  err := by simpa using hi.err.2 hst

/-- An octet before the last one is stored at the end of what is written (R103). -/
theorem RxInv.storeRx {b : Octet} (hi : RxInv s) (hst : s.rxState = .body) (hc : s.rxCnt.toNat + 1 < s.rxLen.toNat) :
    RxInv (s.storeRx b) := by
  obtain ⟨h4, h253, _⟩ := hi.body hst
  have hcnt : (s.storeRx b).rxCnt.toNat = s.rxCnt.toNat + 1 := toNat_add_one (by omega)
  refine ⟨Memory.wf_write hi.bufWf, Memory.within_write hi.bufWithin (show _ < 253 by omega),
    fun _ => ⟨h4, h253, by rwa [hcnt]⟩, fun _ a ha => ?_, fun h => by simp [hst] at h, hi.err⟩
  rw [hcnt] at ha
  rw [State.storeRx_rxBuf, Memory.read_write]
  split
  · rfl
  · exact hi.bodyWritten hst a (by omega)

/-- The last octet of a frame completes the body that is held (R104, Ok arm). -/
theorem RxInv.deliver {b : Octet} {body : List Octet} {f : Instr} (hi : RxInv s) (hst : s.rxState = .body)
    (hc : s.rxCnt.toNat + 1 = s.rxLen.toNat) (hb : (s.storeRx b).rxBody = some body)
    (hd : decodeBody body = some (.ok f)) : RxInv ((s.storeRx b).deliver f) := by
  obtain ⟨h4, h253, _⟩ := hi.body hst
  have hcnt : s.rxCnt + 1#8 = s.rxLen := BitVec.eq_of_toNat_eq (by rw [toNat_add_one (by omega), hc])
  have hheld : ((s.storeRx b).deliver f).heldFrame = some f := (heldFrame_eq_some_iff _ f).2 ⟨rfl, body, hb, hd⟩
  refine ⟨Memory.wf_write hi.bufWf, Memory.within_write hi.bufWithin (show _ < 253 by omega),
    fun h => by simp at h, fun h => by simp at h, fun _ => ⟨h4, h253, hcnt, f, hheld⟩, ?_⟩
  simpa using hi.err.2 (by simp [hst])

/-- Every step keeps the decoder's invariant (R28), whatever the encoder's state. -/
theorem rxInv_step (hi : RxInv s) (h : step s = .next t) : RxInv t := by
  obtain ⟨hw, hn⟩ := step_keeps_rxBuf_canonical h hi.bufWf hi.bufWithin
  cases step_transition h with
  | reset => exact .of_no_frame hw hn (by simp) (by simp) (by simp)
  | @rxStart _ b _ _ _ _ hst =>
    have he : s.rxErr = .none := hi.err.2 (by simp [hst])
    rcases startOctet_cases b s with hs | hs <;> rw [hs] at hw hn ⊢
    · exact .of_no_frame hw hn (by simp) (by simp) (by simp [he])
    · exact .of_raised hw hn rfl (by simp)
  | @rxLen _ b _ _ _ _ hst =>
    rcases lengthOctet_cases b s with hs | hs | ⟨h4, h253, hs⟩ <;> rw [hs] at hw hn ⊢
    · exact .of_raised hw hn rfl (by simp)
    · exact .of_raised hw hn rfl (by simp)
    · exact (hi.beginBody (by simp [hst]) h4 h253).congr rfl rfl rfl rfl rfl
  | rxMore _ _ _ hst _ hc => exact (hi.storeRx hst hc).congr rfl rfl rfl rfl rfl
  | rxFrame _ _ _ hst _ hc hb hd => exact (hi.deliver hst hc hb hd).congr rfl rfl rfl rfl rfl
  | rxMalformed _ _ _ _ _ _ _ hd => exact .of_raised hw hn rfl (decodeBody_err_ne_none hd)
  | take _ _ hst =>
    have he : s.rxErr = .none := hi.err.2 (by simp [hst])
    exact .of_no_frame hw hn (by simp) (by simp) (by simp [he])
  | _ => exact hi.congr rfl rfl rfl rfl rfl

/-! ## The encoder's invariant -/

/-- While a frame goes out, the octet at hand is that of the frame's encoding (R34(b), R132). -/
theorem Sending.nextTxOctet {f : Instr} (hf : Sending f s) (hlt : s.txIdx.toNat < s.txLen.toNat) :
    s.nextTxOctet = (encode f)[s.txIdx.toNat]? := by
  obtain ⟨hwf, hlen, hbuf, _⟩ := hf
  have hsize : s.txIdx.toNat < Config.txbSize := by
    have := encode_length_le hwf
    simp only [Config.txbSize]
    omega
  rw [State.nextTxOctet, if_pos hsize]
  simpa using (Memory.readRange_eq_some_iff.1 hbuf).2 _ hlt

/-- One octet on, the octets before `tx_idx` are still the end of the outbound stream (R132). -/
theorem Sending.advance {f : Instr} {b : Octet} (hf : Sending f s) (hlt : s.txIdx.toNat < s.txLen.toNat)
    (hb : s.nextTxOctet = some b) : Sending f (s.emit b).advanceTx := by
  rw [hf.nextTxOctet hlt] at hb
  obtain ⟨hwf, hlen, hbuf, before, hout⟩ := hf
  have := encode_length_le hwf
  have hidx : (s.emit b).advanceTx.txIdx.toNat = s.txIdx.toNat + 1 := toNat_add_one (x := s.txIdx) (by omega)
  refine ⟨hwf, hlen, hbuf, before, ?_⟩
  rw [hidx, List.take_add_one, hb]
  simp [hout]

/-- An accepted frame's octets are in `tx_buf`, none of them sent (R131). -/
theorem Sending.of_loadTx {f : Instr} (hf : f.wf = true) : Sending f (s.loadTx (encode f)) := by
  have hlen : (s.loadTx (encode f)).txLen.toNat = (encode f).length := by
    have := encode_length_le hf
    rw [State.loadTx_txLen, BitVec.toNat_ofNat]
    omega
  refine ⟨hf, hlen, ?_, s.outbound, by simp⟩
  rw [hlen, State.loadTx_txBuf]
  exact Memory.readRange_writeAll _ 0 _

/-- While nothing is sent, the invariant is about the buffer and the error register only. -/
theorem TxInv.of_not_sending (hw : t.txBuf.wf = true) (hn : t.txBuf.within 255 = true) (hst : t.txState ≠ .send)
    (he : t.txErr = .none ↔ t.txState ≠ .err)
    (hc : t.txErr = .none ∨ t.txErr = .frameTooLarge ∨ t.txErr = .invalidControlField) : TxInv t :=
  ⟨hw, hn, fun h => absurd h hst, fun h => absurd h hst, he, hc⟩

theorem badCause_cases (d : Descriptor) : d.badCause = .frameTooLarge ∨ d.badCause = .invalidControlField := by
  unfold Descriptor.badCause
  split
  · exact .inl rfl
  · exact .inr rfl

/-- Every step keeps the encoder's invariant (R34), whatever the decoder's state. -/
theorem txInv_step (hi : TxInv s) (h : step s = .next t) : TxInv t := by
  obtain ⟨hw, hn⟩ := step_keeps_txBuf_canonical h hi.bufWf hi.bufWithin
  cases step_transition h with
  | reset => exact .of_not_sending hw hn (by simp) (by simp) (by simp)
  | @rxStart _ b =>
    rcases startOctet_cases b s with hs | hs <;> rw [hs] <;> exact hi.congr rfl rfl rfl rfl rfl rfl
  | @rxLen _ b =>
    rcases lengthOctet_cases b s with hs | hs | ⟨_, _, hs⟩ <;> rw [hs] <;> exact hi.congr rfl rfl rfl rfl rfl rfl
  | @txLoad _ d _ f _ _ _ hst hf =>
    have he : s.txErr = .none := hi.err.2 (by simp [hst])
    have hs : Sending f (s.loadTx (encode f)) := .of_loadTx (denote_wf hf)
    have hlen : (s.loadTx (encode f)).txLen.toNat = 6 + f.asdu.length := hs.2.1.trans (encode_length f)
    have hle := encode_length_le (denote_wf hf)
    rw [encode_length] at hle
    refine ⟨hw, hn, fun _ => ?_, fun _ => ⟨f, hs⟩, by simp [he], .inl he⟩
    change 6 ≤ (s.loadTx (encode f)).txLen.toNat ∧ (s.loadTx (encode f)).txLen.toNat ≤ 255 ∧
      0 < (s.loadTx (encode f)).txLen.toNat
    omega
  | @txReject _ d =>
    have hd := badCause_cases d
    exact .of_not_sending hw hn (by simp) (by rcases hd with hd | hd <;> simp [hd]) (.inr hd)
  | byteLast _ _ hst =>
    have he : s.txErr = .none := hi.err.2 (by simp [hst])
    exact .of_not_sending hw hn (by simp) (by simp [he]) (.inl he)
  | @byteMore _ b _ _ hst hb hc =>
    obtain ⟨h6, h255, hlt⟩ := hi.range hst
    obtain ⟨f, hf⟩ := hi.sending hst
    have hidx : (s.txIdx + 1#8).toNat = s.txIdx.toNat + 1 := toNat_add_one (by omega)
    refine ⟨hw, hn, fun _ => ⟨h6, h255, ?_⟩, fun _ => ⟨f, hf.advance hlt hb⟩, hi.err, hi.codes⟩
    change (s.txIdx + 1#8).toNat < s.txLen.toNat
    omega
  | _ => exact hi.congr rfl rfl rfl rfl rfl rfl

theorem inv_step (hi : Inv s) (h : step s = .next t) : Inv t :=
  ⟨rxInv_step hi.1 h, txInv_step hi.2 h⟩

/-- Settles O47: each half's invariant is kept on its own. -/
theorem stepsKeepTheInvariants : Obligations.StepsKeepTheInvariants :=
  fun _ _ hi h => inv_step hi h

/-- Settles O46: nothing is collected, held, sent or in error. -/
theorem resetMeetsTheInvariants : Obligations.ResetMeetsTheInvariants :=
  ⟨.of_no_frame rfl rfl (by decide) (by decide) (by decide),
    .of_not_sending rfl rfl (by decide) (by decide) (by decide)⟩

/-! ## Progress -/

section Progress

variable {rest : List EventKind}

/-- At the last octet the whole body is there to be classified (R25, R104). -/
theorem RxInv.lastOctet_classified (b : Octet) (hi : RxInv s) (hst : s.rxState = .body)
    (hc : s.rxCnt.toNat + 1 = s.rxLen.toNat) :
    ∃ body c, (s.storeRx b).rxBody = some body ∧ decodeBody body = some c := by
  obtain ⟨h4, h253, _⟩ := hi.body hst
  obtain ⟨body, hbody⟩ : ∃ body, (s.storeRx b).rxBody = some body := by
    refine Memory.readRange_isSome fun j hj => ?_
    rw [State.storeRx_rxBuf, Memory.read_write]
    rw [State.storeRx_rxLen] at hj
    split
    · rfl
    · exact hi.bodyWritten hst _ (by omega)
  have hlen : body.length = s.rxLen.toNat := Memory.readRange_length hbody
  obtain ⟨c, hcl⟩ := Option.isSome_iff_exists.1 ((decodeBody_isSome_iff body).2 (by omega))
  exact ⟨body, c, hbody, hcl⟩

theorem RxInv.rxByte_goes_on (hi : RxInv s) (hr : s.resetDone = true) (hs : s.schedule = .rxByte :: rest) :
    ∃ t, Transition s t := by
  cases hin : s.inbound with
  | nil => exact ⟨_, .rxWaits hs hr (.inl hin)⟩
  | cons b bs =>
    cases hst : s.rxState with
    | start => exact ⟨_, .rxStart hs hr hin hst⟩
    | len => exact ⟨_, .rxLen hs hr hin hst⟩
    | hold => exact ⟨_, .rxWaits hs hr (.inr hst)⟩
    | err => exact ⟨_, .rxDiscard hs hr hin hst⟩
    | body =>
      obtain ⟨_, h253, hlt⟩ := hi.body hst
      by_cases hc : s.rxCnt.toNat + 1 < s.rxLen.toNat
      · exact ⟨_, .rxMore hs hr hin hst (by omega) hc⟩
      · have hc : s.rxCnt.toNat + 1 = s.rxLen.toNat := by omega
        obtain ⟨body, c, hb, hd⟩ := hi.lastOctet_classified b hst hc
        cases c with
        | ok f => exact ⟨_, .rxFrame hs hr hin hst (by omega) hc hb hd⟩
        | err e info => exact ⟨_, .rxMalformed hs hr hin hst (by omega) hc hb hd⟩

theorem RxInv.frameTake_goes_on (hi : RxInv s) (hr : s.resetDone = true) (hs : s.schedule = .frameTake :: rest) :
    ∃ t, Transition s t := by
  by_cases hst : s.rxState = .hold
  · obtain ⟨_, _, _, f, hf⟩ := hi.hold hst
    exact ⟨_, .take hs hr hst hf⟩
  · exact ⟨_, .takeWaits hs hr hst⟩

theorem txFrame_goes_on (hr : s.resetDone = true) (hs : s.schedule = .txFrame :: rest) : ∃ t, Transition s t := by
  cases hd : s.descriptors with
  | nil => exact ⟨_, .txWaits hs hr (.inl hd)⟩
  | cons d ds =>
    cases hst : s.txState with
    | send => exact ⟨_, .txWaits hs hr (.inr hst)⟩
    | err => exact ⟨_, .txDiscard hs hr hd hst⟩
    | idle =>
      cases hf : d.denote with
      | some f => exact ⟨_, .txLoad hs hr hd hst hf⟩
      | none => exact ⟨_, .txReject hs hr hd hst hf⟩

/-- While a frame goes out there is an octet to put out (R34(b), R132). -/
theorem TxInv.exists_nextTxOctet (hi : TxInv s) (hst : s.txState = .send) : ∃ b, s.nextTxOctet = some b := by
  obtain ⟨f, hf⟩ := hi.sending hst
  obtain ⟨_, _, hlt⟩ := hi.range hst
  have hidx : s.txIdx.toNat < (encode f).length := hf.2.1 ▸ hlt
  exact ⟨_, (hf.nextTxOctet hlt).trans (List.getElem?_eq_getElem hidx)⟩

theorem TxInv.txByte_goes_on (hi : TxInv s) (hr : s.resetDone = true) (hs : s.schedule = .txByte :: rest) :
    ∃ t, Transition s t := by
  by_cases hst : s.txState = .send
  · obtain ⟨b, hb⟩ := hi.exists_nextTxOctet hst
    by_cases hc : s.txIdx.toNat + 1 = s.txLen.toNat
    · exact ⟨_, .byteLast hs hr hst hb hc⟩
    · exact ⟨_, .byteMore hs hr hst hb hc⟩
  · exact ⟨_, .byteWaits hs hr hst⟩

end Progress

/-- Under the invariants every event has a next state. -/
theorem inv_goes_on (hi : Inv s) (hr : s.resetDone = true) : ∃ t, step s = .next t := by
  obtain ⟨hrx, htx⟩ := hi
  obtain ⟨t, ht⟩ : ∃ t, Transition s t := by
    cases hs : s.schedule with
    | nil => exact ⟨s, .idle hs⟩
    | cons ev rest =>
      cases ev with
      | reset => exact ⟨_, .reset hs⟩
      | rxByte => exact hrx.rxByte_goes_on hr hs
      | frameTake => exact hrx.frameTake_goes_on hr hs
      | txFrame => exact txFrame_goes_on hr hs
      | txByte => exact htx.txByte_goes_on hr hs
  exact ⟨t, step_of_transition ht⟩

/-- Settles O48: a transition is enabled for every event. -/
theorem noStepStops : Obligations.NoStepStops :=
  fun _ hi hr => inv_goes_on hi hr

/-! ## Codes (R37) -/

/-- The functions are exactly the U-frames, each under its own code. -/
theorem ufuncFrame_eq_some_iff {c : BitVec 3} {f : Instr} : ufuncFrame c = some f ↔ kindCode f = 3#2 ∧ ufuncCode f = c := by
  constructor
  · intro h
    unfold ufuncFrame at h
    split_ifs at h with h0 h1 h2 h3 h4 h5
    all_goals
      cases h
      exact ⟨rfl, Eq.symm ‹c = _›⟩
  · rintro ⟨hk, rfl⟩
    cases f with
    | i | s => cases hk
    | _ => rfl

/-- Code *c* selects bit *c* + 2 of `CF1` and no other function bit. -/
theorem cf1_function_bits {f : Instr} (hk : kindCode f = 3#2) {cf1 : Octet} (h : (encodeBody f).head? = some cf1) :
    ∀ j, 2 ≤ j → j ≤ 7 → (cf1.getLsbD j = true ↔ j = (ufuncCode f).toNat + 2) := by
  cases f with
  | i | s => cases hk
  | _ =>
    cases h
    decide

/-- The kind code is `CF1[1:0]`, with bit 1 forced to 0 for the I-format. -/
theorem kindCode_eq_cf1_bits {f : Instr} {cf1 : Octet} (h : (encodeBody f).head? = some cf1) :
    kindCode f = if cf1.getLsbD 0 = false then 0#2 else cf1.extractLsb' 0 2 := by
  cases f with
  | i ns nr asdu =>
    cases h
    rw [if_pos (seqLo_getLsbD_zero ns)]
    rfl
  | _ =>
    cases h
    rfl

/-- Settles O10, from the codes of the six functions and the patterns the encoder writes. -/
theorem codesMirrorTheWireBits : Obligations.CodesMirrorTheWireBits := by
  refine ⟨fun _ _ _ => rfl, fun _ => rfl, fun f => ?_, fun _ _ => kindCode_eq_cf1_bits, fun f c hf => ?_, rfl⟩
  · cases f <;> simp [kindCode]
  · obtain ⟨hk, rfl⟩ := ufuncFrame_eq_some_iff.1 hf
    exact ⟨hk, rfl, fun _ => cf1_function_bits hk⟩

/-! ## Outputs (R35, R36, R40) -/

/-- The status and handshake outputs at a frame boundary with nothing to send (R35, R40). -/
theorem outputs_of_start_idle (hrx : s.rxState = .start) (htx : s.txState = .idle) :
    s.rxReady = true ∧ s.rxNeedMore = true ∧ s.rxPartial = false ∧ s.frmValid = false ∧ s.rxFault = false ∧
    s.txcReady = true ∧ s.txValid = false ∧ s.txBusy = false ∧ s.txFault = false := by
  simp [State.rxReady, State.rxNeedMore, State.rxPartial, State.frmValid, State.rxFault, State.txcReady, State.txValid,
    State.txBusy, State.txFault, hrx, htx]

/-- Settles O13: the registers are those of R42, and the outputs follow from `RX_START` and `TX_IDLE`. -/
theorem resetLeavesTheListedValues : Obligations.ResetLeavesTheListedValues := by
  rintro s t (rfl | ⟨hs, h⟩)
  · exact ⟨rfl, rfl, rfl, rfl, rfl, rfl, rfl, rfl, rfl, outputs_of_start_idle rfl rfl⟩
  · obtain ⟨rest, hs⟩ := List.head?_eq_some_iff.1 hs
    rw [step_reset hs] at h
    cases h
    exact ⟨rfl, rfl, rfl, rfl, rfl, rfl, rfl, rfl, rfl, outputs_of_start_idle rfl rfl⟩

/-- The decoder's status outputs against the code of `rx_state`, row by row of R35. -/
theorem rx_status_iff_code (s : State) :
    (s.rxNeedMore = true ↔ s.rxState.code = 0#3 ∨ s.rxState.code = 1#3 ∨ s.rxState.code = 2#3) ∧
    (s.rxPartial = true ↔ s.rxState.code = 1#3 ∨ s.rxState.code = 2#3) ∧
    (s.frmValid = true ↔ s.rxState.code = 3#3) ∧ (s.rxFault = true ↔ s.rxState.code = 4#3) ∧
    (s.rxReady = true ↔
      s.rxState.code = 0#3 ∨ s.rxState.code = 1#3 ∨ s.rxState.code = 2#3 ∨ s.rxState.code = 4#3) ∧
    s.rxNeedMore.toNat + s.frmValid.toNat + s.rxFault.toNat = 1 := by
  unfold State.rxNeedMore State.rxPartial State.frmValid State.rxFault State.rxReady
  cases s.rxState <;> decide

/-- The encoder's status and handshake outputs against the code of `tx_state`. -/
theorem tx_status_iff_code (s : State) :
    (s.txBusy = true ↔ s.txState.code = 1#2) ∧ (s.txFault = true ↔ s.txState.code = 2#2) ∧
    (s.txcReady = true ↔ s.txState.code = 0#2 ∨ s.txState.code = 2#2) ∧ (s.txValid = true ↔ s.txState.code = 1#2) := by
  unfold State.txBusy State.txFault State.txcReady State.txValid
  cases s.txState <;> decide

theorem errCode_ne_zero_iff (e : ErrCode) : errCode e ≠ 0#3 ↔ e ≠ .none := by
  cases e <;> decide

theorem txData_of_read {b : Octet} (k : Nat) (h : s.txBuf.read s.txIdx.toNat = some b) : s.txData k = b := by
  rw [State.txData, h]
  rfl

theorem read_of_nextTxOctet {b : Octet} (h : s.nextTxOctet = some b) : s.txBuf.read s.txIdx.toNat = some b := by
  unfold State.nextTxOctet at h
  split at h
  · exact h
  · cases h

/-- While `tx_valid` = 1 the cell that `tx_data` shows is written (R34(b)). -/
theorem TxInv.read_txData (hi : TxInv s) (hv : s.txValid = true) (k : Nat) :
    s.txBuf.read s.txIdx.toNat = some (s.txData k) := by
  obtain ⟨b, hb⟩ := hi.exists_nextTxOctet (of_decide_eq_true hv)
  have hread := read_of_nextTxOctet hb
  rw [hread, txData_of_read k hread]

/-- Under the invariants a fault output says that the error code is not 0 (R28(d), R34(c)). -/
theorem Inv.fault_iff_errCode (hi : Inv s) :
    (s.rxFault = true ↔ errCode s.rxErr ≠ 0#3) ∧ (s.txFault = true ↔ errCode s.txErr ≠ 0#3) := by
  obtain ⟨hrx, htx⟩ := hi
  rw [errCode_ne_zero_iff, errCode_ne_zero_iff, Ne, Ne, hrx.err, htx.err]
  simp [State.rxFault, State.txFault]

/-- Settles O11: each output is read off the state's code, and the invariants tie `tx_data` and the faults to the state. -/
theorem statusOutputsFollowTheState : Obligations.StatusOutputsFollowTheState := by
  refine ⟨⟨rfl, rfl, rfl, rfl, rfl, rfl⟩, fun s => ?_, fun s => ?_, fun s k b => txData_of_read k,
    fun s k hi hv => hi.2.read_txData hv k, fun _ _ _ => rfl, fun s hi => hi.fault_iff_errCode, rfl, rfl, rfl, rfl, rfl, rfl⟩
  · obtain ⟨hmore, hpartial, hvalid, hfault, _, hone⟩ := rx_status_iff_code s
    obtain ⟨hbusy, htfault, _, _⟩ := tx_status_iff_code s
    exact ⟨hmore, hpartial, hvalid, hfault, hbusy, htfault, hone⟩
  · obtain ⟨_, _, _, _, hready, _⟩ := rx_status_iff_code s
    obtain ⟨_, _, htready, htvalid⟩ := tx_status_iff_code s
    exact ⟨hready, htready, htvalid⟩

/-- The octets after the control field are the ASDU (R76, R84). -/
theorem encodeBody_getElem?_asdu (f : Instr) (j : Nat) : (encodeBody f)[4 + j]? = f.asdu[j]? := by
  have hdrop : (encodeBody f).drop 4 = f.asdu := by cases f <;> rfl
  rw [← hdrop, List.getElem?_drop]

theorem frameOut_of_held {f : Instr} (k : Nat) (h : s.heldFrame = some f) :
    s.frameOut k =
      { kind := kindCode f, ufunc := ufuncCode f, ns := nsField f, nr := nrField f, asduLen := s.rxLen - 4#8 } := by
  rw [State.frameOut, h]
  rfl

theorem asduData_of_held {f : Instr} {a : BitVec 8} {v : Octet} (k : Nat) (h : s.heldFrame = some f)
    (ha : a.toNat + 4 < s.rxLen.toNat) (hv : s.rxBuf.read (4 + a.toNat) = some v) : s.asduData k a = v := by
  rw [State.asduData, h]
  simp only [Config.ctrlLen, if_pos ha, hv, Option.getD_some]

/-- Settles O12: the held octets are the encoding of the frame they classify as, so the cells past the control field are its
ASDU. -/
theorem frameOutputsPresentTheHeldFrame : Obligations.FrameOutputsPresentTheHeldFrame := by
  intro s k hi hv
  obtain ⟨h4, _, _, f, hheld⟩ := hi.1.hold (of_decide_eq_true hv)
  obtain ⟨_, body, hbody, hd⟩ := (heldFrame_eq_some_iff s f).1 hheld
  obtain ⟨hlen, hcells⟩ := Memory.readRange_eq_some_iff.1 hbody
  obtain ⟨_, rfl⟩ := decodeBody_eq_ok hd
  rw [encodeBody_length] at hlen
  have hasduLen : (s.rxLen - 4#8).toNat = s.rxLen.toNat - 4 := by bv_omega
  rw [frameOut_of_held k hheld]
  refine ⟨f, _, hbody, hd, rfl, rfl, rfl, rfl, hasduLen, by omega, fun a ha => ?_⟩
  simp only [hasduLen] at ha
  have hread : s.rxBuf.read (4 + a.toNat) = f.asdu[a.toNat]? := by
    simpa [encodeBody_getElem?_asdu] using hcells (4 + a.toNat) (by omega)
  have hasdu : f.asdu[a.toNat]? = some f.asdu[a.toNat] := List.getElem?_eq_getElem (by omega)
  rw [asduData_of_held k hheld (by omega) (hread.trans hasdu)]
  exact ⟨hread.trans hasdu, hasdu⟩

/-! ## The frame of every kind -/

/-- Settles O34: in `RX_BODY` a frame that runs is at its last octet. -/
theorem receivedFrameChangesOnlyItsCell : Obligations.ReceivedFrameChangesOnlyItsCell := by
  intro f s t b hs hin hst h
  obtain ⟨rest, hs⟩ := List.head?_eq_some_iff.1 hs
  obtain ⟨bs, hin⟩ := List.head?_eq_some_iff.1 hin
  rw [exec_rx f hs] at h
  rcases receiveFrame_next h with ⟨hw, _⟩ | ⟨herr, _⟩ | ⟨c, cs, hc, _, _, _, rfl⟩
  · simp [hin, hst] at hw
  · simp [hst] at herr
  · obtain ⟨rfl, rfl⟩ := List.cons.inj (hin.symm.trans hc)
    exact ⟨⟨rfl, rfl, rfl, rfl, rfl, rfl, rfl⟩, rfl, rfl, rfl, rfl, rfl, rfl, rfl, Memory.read_write_same _ _ _,
      fun a ha => Memory.read_write_other _ _ ha⟩

/-- Loading octets leaves the cells from their number up alone (R131). -/
theorem read_writeAll_of_length_le (m : Memory) {e : List Octet} {a : Nat} (h : e.length ≤ a) :
    (m.writeAll 0 e).read a = m.read a := by
  rw [Memory.read_writeAll, if_neg (by omega)]

/-- Settles O45, along the four things a frame does on TX. -/
theorem sentFrameChangesOnlyItsCells : Obligations.SentFrameChangesOnlyItsCells := by
  intro f s t hs h
  obtain ⟨rest, hs⟩ := List.head?_eq_some_iff.1 hs
  rw [exec_tx f hs] at h
  rcases sendFrame_cases f s with ⟨hw, hn⟩ | ⟨hd, hst, hn⟩ | ⟨hd, hst, hwf, hn⟩ | ⟨hd, hst, hwf, hn⟩ <;>
    (cases h.symm.trans hn; refine ⟨⟨rfl, rfl, rfl, rfl, rfl, rfl, rfl, rfl⟩, rfl, rfl, rfl, ?_⟩)
  · have hwait : s.txState ≠ .idle ∨ s.descriptors = [] := by
      rcases hw with hd | hst
      · exact .inr hd
      · exact .inl (by simp [hst])
    rw [if_neg (by tauto), if_pos hwait]
    exact ⟨rfl, rfl, rfl, rfl, rfl⟩
  · rw [if_neg (by simp [hst]), if_pos (by simp [hst])]
    exact ⟨rfl, rfl, rfl, rfl, rfl⟩
  · rw [if_pos ⟨hd, hst, hwf⟩]
    exact ⟨rfl, fun a ha => read_writeAll_of_length_le _ ha⟩
  · rw [if_neg (by simp [hwf]), if_neg (by simp [hst, hd])]
    exact ⟨rfl, rfl, rfl, rfl, rfl⟩

/-! ## Two halves (R20) -/

/-- `s` with the decoder's half of `r`. -/
def State.withRxOf (s r : State) : State :=
  { s with
    rxState := r.rxState, rxLen := r.rxLen, rxCnt := r.rxCnt, rxBuf := r.rxBuf, rxErr := r.rxErr, rxErrInfo := r.rxErrInfo,
    inbound := r.inbound, rxOut := r.rxOut }

/-- `s` with the encoder's half of `x`. -/
def State.withTxOf (s x : State) : State :=
  { s with
    txState := x.txState, txLen := x.txLen, txIdx := x.txIdx, txBuf := x.txBuf, txErr := x.txErr, outbound := x.outbound,
    descriptors := x.descriptors }

theorem sameRx_withRxOf (s r : State) : SameRx r (s.withRxOf r) :=
  ⟨rfl, rfl, rfl, rfl, rfl, rfl, rfl, rfl⟩

theorem sameTx_withRxOf (s r : State) : SameTx s (s.withRxOf r) :=
  ⟨rfl, rfl, rfl, rfl, rfl, rfl, rfl⟩

theorem sameTx_withTxOf (s x : State) : SameTx x (s.withTxOf x) :=
  ⟨rfl, rfl, rfl, rfl, rfl, rfl, rfl⟩

theorem sameRx_withTxOf (s x : State) : SameRx s (s.withTxOf x) :=
  ⟨rfl, rfl, rfl, rfl, rfl, rfl, rfl, rfl⟩

theorem SameRx.withRxOf_eq {s u : State} (h : SameRx s u) : u.withRxOf s = u := by
  obtain ⟨hst, hlen, hcnt, hbuf, herr, hinfo, hin, hout⟩ := h
  rw [State.withRxOf, ← hst, ← hlen, ← hcnt, ← hbuf, ← herr, ← hinfo, ← hin, ← hout]

theorem SameTx.withTxOf_eq {s u : State} (h : SameTx s u) : u.withTxOf s = u := by
  obtain ⟨hst, hlen, hidx, hbuf, herr, hout, hdesc⟩ := h
  rw [State.withTxOf, ← hst, ← hlen, ← hidx, ← hbuf, ← herr, ← hout, ← hdesc]

theorem startOctet_withRxOf (b : Octet) (u s : State) : startOctet b (u.withRxOf s) = u.withRxOf (startOctet b s) := by
  unfold startOctet
  split <;> rfl

theorem lengthOctet_withRxOf (b : Octet) (u s : State) : lengthOctet b (u.withRxOf s) = u.withRxOf (lengthOctet b s) := by
  unfold lengthOctet
  split_ifs <;> rfl

/-- An RX event at hand. -/
def RxEvent (s : State) : Prop :=
  s.schedule.head? = some .rxByte ∨ s.schedule.head? = some .frameTake

/-- A TX event at hand. -/
def TxEvent (s : State) : Prop :=
  s.schedule.head? = some .txFrame ∨ s.schedule.head? = some .txByte

/-- An RX event does to the decoder's half the same beside any encoder. -/
theorem Transition.withRxOf {u : State} (ht : Transition s t) (hev : RxEvent s) (hr : u.resetDone = s.resetDone)
    (hu : u.schedule.head? = s.schedule.head?) : Transition (u.withRxOf s) (u.retire.withRxOf t) := by
  have hsched : ∀ {ev rest}, s.schedule = ev :: rest → ∃ rest', (u.withRxOf s).schedule = ev :: rest' :=
    fun h => List.head?_eq_some_iff.1 (by rw [← List.head?_cons, ← h]; exact hu)
  cases ht with
  | rxWaits h hd hw => exact (hsched h).elim fun _ h => .rxWaits h (hr.trans hd) hw
  | @rxStart _ b _ h hd hin hst =>
    obtain ⟨_, h⟩ := hsched h
    have ht := Transition.rxStart (s := u.withRxOf s) h (hr.trans hd) hin hst
    rwa [startOctet_withRxOf] at ht
  | rxLen h hd hin hst =>
    obtain ⟨_, h⟩ := hsched h
    have ht := Transition.rxLen (s := u.withRxOf s) h (hr.trans hd) hin hst
    rwa [lengthOctet_withRxOf] at ht
  | rxMore h hd hin hst hlt hc => exact (hsched h).elim fun _ h => .rxMore h (hr.trans hd) hin hst hlt hc
  | rxFrame h hd hin hst hlt hc hb hf => exact (hsched h).elim fun _ h => .rxFrame h (hr.trans hd) hin hst hlt hc hb hf
  | rxMalformed h hd hin hst hlt hc hb hf => exact (hsched h).elim fun _ h => .rxMalformed h (hr.trans hd) hin hst hlt hc hb hf
  | rxDiscard h hd hin hst => exact (hsched h).elim fun _ h => .rxDiscard h (hr.trans hd) hin hst
  | takeWaits h hd hst => exact (hsched h).elim fun _ h => .takeWaits h (hr.trans hd) hst
  | take h hd hst hf => exact (hsched h).elim fun _ h => .take h (hr.trans hd) hst hf
  | idle h | reset h | txWaits h | txLoad h | txReject h | txDiscard h | byteWaits h | byteLast h | byteMore h =>
    simp [RxEvent, h] at hev

/-- A TX event does to the encoder's half the same beside any decoder. -/
theorem Transition.withTxOf {u : State} (ht : Transition s t) (hev : TxEvent s) (hr : u.resetDone = s.resetDone)
    (hu : u.schedule.head? = s.schedule.head?) : Transition (u.withTxOf s) (u.retire.withTxOf t) := by
  have hsched : ∀ {ev rest}, s.schedule = ev :: rest → ∃ rest', (u.withTxOf s).schedule = ev :: rest' :=
    fun h => List.head?_eq_some_iff.1 (by rw [← List.head?_cons, ← h]; exact hu)
  cases ht with
  | txWaits h hd hw => exact (hsched h).elim fun _ h => .txWaits h (hr.trans hd) hw
  | txLoad h hd hds hst hf => exact (hsched h).elim fun _ h => .txLoad h (hr.trans hd) hds hst hf
  | txReject h hd hds hst hf => exact (hsched h).elim fun _ h => .txReject h (hr.trans hd) hds hst hf
  | txDiscard h hd hds hst => exact (hsched h).elim fun _ h => .txDiscard h (hr.trans hd) hds hst
  | byteWaits h hd hst => exact (hsched h).elim fun _ h => .byteWaits h (hr.trans hd) hst
  | byteLast h hd hst hb hc => exact (hsched h).elim fun _ h => .byteLast h (hr.trans hd) hst hb hc
  | byteMore h hd hst hb hc => exact (hsched h).elim fun _ h => .byteMore h (hr.trans hd) hst hb hc
  | idle h | reset h | rxWaits h | rxStart h | rxLen h | rxMore h | rxFrame h | rxMalformed h | rxDiscard h
  | takeWaits h | take h =>
    simp [TxEvent, h] at hev

/-- An RX event leaves the encoder's half alone (`step_halves`, for an RX event at hand). -/
theorem rxEvent_sameTx (hev : RxEvent s) (h : step s = .next t) : SameTx s t := by
  rcases step_halves h (by rcases hev with hs | hs <;> simp [hs]) with ⟨hsame, _⟩ | ⟨_, hs'⟩ | rfl
  · exact hsame
  · rcases hev with hs | hs <;> simp [hs] at hs'
  · exact ⟨rfl, rfl, rfl, rfl, rfl, rfl, rfl⟩

/-- A TX event leaves the decoder's half alone. -/
theorem txEvent_sameRx (hev : TxEvent s) (h : step s = .next t) : SameRx s t := by
  rcases step_halves h (by rcases hev with hs | hs <;> simp [hs]) with ⟨_, hs'⟩ | ⟨hsame, _⟩ | rfl
  · rcases hev with hs | hs <;> simp [hs] at hs'
  · exact hsame
  · exact ⟨rfl, rfl, rfl, rfl, rfl, rfl, rfl, rfl⟩

/-- Settles O51: the second state is the first's half beside its own other half, where the same transition is enabled. -/
theorem halvesDoNotInteract : Obligations.HalvesDoNotInteract := by
  refine ⟨fun s s' t hsame hr hs hev h => ⟨rxEvent_sameTx hev h, s'.retire.withRxOf t, ?_, sameRx_withRxOf _ _,
    sameTx_withRxOf s'.retire t⟩, fun s s' t hsame hr hs hev h => ⟨txEvent_sameRx hev h, s'.retire.withTxOf t, ?_,
    sameTx_withTxOf _ _, sameRx_withTxOf s'.retire t⟩⟩
  · have ht := (step_transition h).withRxOf hev hr hs
    rw [hsame.withRxOf_eq] at ht
    exact step_of_transition ht
  · have ht := (step_transition h).withTxOf hev hr hs
    rw [hsame.withTxOf_eq] at ht
    exact step_of_transition ht

/-! ## One cycle (R41, R191) -/

theorem SameRx.trans {u : State} (h : SameRx s t) (h' : SameRx t u) : SameRx s u := by
  simp_all [SameRx]

theorem SameTx.trans {u : State} (h : SameTx s t) (h' : SameTx t u) : SameTx s u := by
  simp_all [SameTx]

theorem SameRx.symm (h : SameRx s t) : SameRx t s := by
  simp_all [SameRx]

theorem SameTx.symm (h : SameTx s t) : SameTx t s := by
  simp_all [SameTx]

/-- An RX event beside another encoder: its result on the decoder's half is the same. -/
theorem rxEvent_same {u v : State} (hsame : SameRx s u) (hr : u.resetDone = s.resetDone)
    (hs : u.schedule.head? = s.schedule.head?) (hev : RxEvent s) (ht : step s = .next t) (hv : step u = .next v) :
    SameRx t v := by
  obtain ⟨_, v', hv', hsame', _⟩ := halvesDoNotInteract.1 s u t hsame hr hs hev ht
  cases hv.symm.trans hv'
  exact hsame'

theorem txEvent_same {u v : State} (hsame : SameTx s u) (hr : u.resetDone = s.resetDone)
    (hs : u.schedule.head? = s.schedule.head?) (hev : TxEvent s) (ht : step s = .next t) (hv : step u = .next v) :
    SameTx t v := by
  obtain ⟨_, v', hv', hsame', _⟩ := halvesDoNotInteract.2 s u t hsame hr hs hev ht
  cases hv.symm.trans hv'
  exact hsame'

theorem runSteps_succ_next {n : Nat} {u : State} (h : runSteps (n + 1) s = .next u) :
    ∃ m, step s = .next m ∧ runSteps n m = .next u := by
  cases hm : step s with
  | next m => exact ⟨m, rfl, by simpa only [runSteps, hm] using h⟩
  | fault r => simp [runSteps, hm] at h
  | refused r => simp [runSteps, hm] at h

theorem runSteps_two {u : State} (h : runSteps 2 s = .next u) : ∃ m, step s = .next m ∧ step m = .next u := by
  obtain ⟨m, hm, h⟩ := runSteps_succ_next h
  obtain ⟨u', hu, h⟩ := runSteps_succ_next h
  cases h
  exact ⟨m, hm, hu⟩

/-- An RX event and a TX event commute: the second finds its half as it was, and neither touches the other's (R41). -/
theorem events_commute {x y u : State} {er et : EventKind} (her : er = .rxByte ∨ er = .frameTake)
    (het : et = .txFrame ∨ et = .txByte) (hrx : SameRx x y) (htx : SameTx x y) (hxr : x.resetDone = true)
    (hyr : y.resetDone = true) (hx : x.schedule = [er, et]) (hy : y.schedule = [et, er])
    (ht : runSteps 2 x = .next t) (hu : runSteps 2 y = .next u) : u = t := by
  obtain ⟨m, hxm, hmt⟩ := runSteps_two ht
  obtain ⟨n, hyn, hnu⟩ := runSteps_two hu
  have hmr := step_resetDone hxm hxr
  have hnr := step_resetDone hyn hyr
  have hms : m.schedule = [et] := by rw [step_schedule hxm, hx]; rfl
  have hns : n.schedule = [er] := by rw [step_schedule hyn, hy]; rfl
  have hxe : RxEvent x := by simpa [RxEvent, hx] using her
  have hye : TxEvent y := by simpa [TxEvent, hy] using het
  have hme : TxEvent m := by simpa [TxEvent, hms] using het
  have hne : RxEvent n := by simpa [RxEvent, hns] using her
  have hxn : SameRx x n := hrx.trans (txEvent_sameRx hye hyn)
  have hym : SameTx y m := htx.symm.trans (rxEvent_sameTx hxe hxm)
  have hmu : SameRx m u := rxEvent_same hxn (by rw [hnr, hxr]) (by rw [hns, hx]; rfl) hxe hxm hnu
  have hnt : SameTx n t := txEvent_same hym (by rw [hmr, hyr]) (by rw [hms, hy]; rfl) hye hyn hmt
  refine State.eq_of_halves ((txEvent_sameRx hme hmt).symm.trans hmu) (hnt.symm.trans (rxEvent_sameTx hne hnu)) ?_ ?_
  · rw [step_schedule hnu, step_schedule hmt, hns, hms]
    rfl
  · rw [step_resetDone hnu hnr, step_resetDone hmt hmr]

/-- Under the invariants a run of any length goes on. -/
theorem inv_runs (n : Nat) : ∀ {s : State}, Inv s → s.resetDone = true → ∃ t, runSteps n s = .next t := by
  induction n with
  | zero => exact fun _ _ => ⟨_, rfl⟩
  | succ n ih =>
    intro s hi hr
    obtain ⟨m, hm⟩ := inv_goes_on hi hr
    obtain ⟨t, ht⟩ := ih (inv_step hi hm) (step_resetDone hm hr)
    exact ⟨t, by simp only [runSteps, hm, ht]⟩

/-- What the environment offers is not part of either invariant. -/
theorem Inv.offer (hi : Inv s) (p : PortIn) (evs : List EventKind) : Inv (s.offer p evs) :=
  ⟨hi.1.congr rfl rfl rfl rfl rfl, hi.2.congr rfl rfl rfl rfl rfl rfl⟩

theorem rxReady_eq_not_frmValid (s : State) : s.rxReady = !s.frmValid := by
  unfold State.rxReady State.frmValid
  cases s.rxState <;> rfl

theorem txcReady_eq_not_txValid (s : State) : s.txcReady = !s.txValid := by
  unfold State.txcReady State.txValid
  cases s.txState <;> rfl

theorem rxEventOf_cases (p : PortIn) (s : State) :
    rxEventOf p s = [] ∨ ∃ ev, rxEventOf p s = [ev] ∧ (ev = .rxByte ∨ ev = .frameTake) := by
  unfold rxEventOf
  split_ifs
  · exact .inr ⟨_, rfl, .inl rfl⟩
  · exact .inr ⟨_, rfl, .inr rfl⟩
  · exact .inl rfl

theorem txEventOf_cases (p : PortIn) (s : State) :
    txEventOf p s = [] ∨ ∃ ev, txEventOf p s = [ev] ∧ (ev = .txFrame ∨ ev = .txByte) := by
  unfold txEventOf
  split_ifs
  · exact .inr ⟨_, rfl, .inl rfl⟩
  · exact .inr ⟨_, rfl, .inr rfl⟩
  · exact .inl rfl

/-- An RX event is the cycle's exactly when its handshake completes (R40). -/
theorem mem_rxEventOf (p : PortIn) (s : State) :
    (EventKind.rxByte ∈ rxEventOf p s ↔ p.rxValid = true ∧ s.rxReady = true) ∧
    (EventKind.frameTake ∈ rxEventOf p s ↔ s.frmValid = true ∧ p.frmTake = true) := by
  rw [rxEventOf, rxReady_eq_not_frmValid]
  split_ifs <;> simp_all

/-- A TX event is the cycle's exactly when its handshake completes (R40). -/
theorem mem_txEventOf (p : PortIn) (s : State) :
    (EventKind.txFrame ∈ txEventOf p s ↔ p.txcValid = true ∧ s.txcReady = true) ∧
    (EventKind.txByte ∈ txEventOf p s ↔ s.txValid = true ∧ p.txReady = true) := by
  rw [txEventOf, txcReady_eq_not_txValid]
  split_ifs <;> simp_all

/-- With no `Reset` the cycle goes on, and to the same state with its two events in the other order (R41). -/
theorem cycle_order_does_not_matter {p : PortIn} (hi : Inv s) (hr : s.resetDone = true) (hrst : p.rst = false) :
    ∃ t, cycle p s = .next t ∧
      runSteps (cycleEvents p s).length (s.offer p (txEventOf p s ++ rxEventOf p s)) = .next t := by
  have hevs : cycleEvents p s = rxEventOf p s ++ txEventOf p s := by simp [cycleEvents, hrst]
  have hruns : ∀ evs, ∃ t, runSteps (cycleEvents p s).length (s.offer p evs) = .next t :=
    fun evs => inv_runs _ (hi.offer p evs) hr
  obtain ⟨t, ht⟩ := hruns (cycleEvents p s)
  refine ⟨t, ht, ?_⟩
  rcases rxEventOf_cases p s with hrx | ⟨er, hrx, her⟩
  · rw [hevs, hrx] at ht ⊢
    simpa using ht
  · rcases txEventOf_cases p s with htx | ⟨et, htx, het⟩
    · rw [hevs, htx] at ht ⊢
      simpa using ht
    · obtain ⟨u, hu⟩ := hruns (txEventOf p s ++ rxEventOf p s)
      rw [hevs, hrx, htx] at ht hu ⊢
      rw [hu, events_commute (x := s.offer p [er, et]) (y := s.offer p [et, er]) her het
        ⟨rfl, rfl, rfl, rfl, rfl, rfl, rfl, rfl⟩ ⟨rfl, rfl, rfl, rfl, rfl, rfl, rfl⟩ hr hr rfl rfl ht hu]

/-- Settles O53: the handshakes of one half exclude each other, and the two halves do not interact. -/
theorem cycleEventsCommute : Obligations.CycleEventsCommute := by
  refine ⟨fun s => ?_, fun p s => ?_, fun p s hi hr => ⟨?_, ?_, ?_, ?_, fun hrst => ?_, cycle_order_does_not_matter hi hr⟩⟩
  · rw [rxReady_eq_not_frmValid, txcReady_eq_not_txValid]
    simp [State.frmValid, State.txValid]
  · obtain ⟨hbyte, htake⟩ := mem_rxEventOf p s
    obtain ⟨hframe, htbyte⟩ := mem_txEventOf p s
    exact ⟨hbyte, htake, hframe, htbyte⟩
  · rcases rxEventOf_cases p s with he | ⟨ev, he, _⟩ <;> simp [he]
  · rcases txEventOf_cases p s with he | ⟨ev, he, _⟩ <;> simp [he]
  · rcases rxEventOf_cases p s with he | ⟨ev, he, hev⟩
    · simp [he]
    · simpa [he] using hev
  · rcases txEventOf_cases p s with he | ⟨ev, he, hev⟩
    · simp [he]
    · simpa [he] using hev
  · have hevs : cycleEvents p s = [.reset] := if_pos hrst
    exact ⟨hevs, by rw [cycle, hevs]; rfl⟩

end Sys2Proof.Machine
end

section
/-! PROOFS. The statements of 20_memory.md: the outbound stream (R60) along every step. -/

namespace Sys2Proof.Machine

variable {base : List Octet} {s t : State}

/-! ## The two forms of the outbound stream (R60(b)) -/

theorem wholeApdus_iff_of_send (hst : s.txState = .send) :
    WholeApdus base s ↔ ∃ (fs : List Instr) (f : Instr), (∀ g ∈ fs, g.wf = true) ∧ Sending f s ∧
      s.txIdx.toNat < s.txLen.toNat ∧ s.outbound = base ++ fs.flatMap encode ++ (encode f).take s.txIdx.toNat := by
  simp only [WholeApdus, if_pos hst]
  constructor
  · rintro ⟨fs, hfs, f, hf, hlen, hbuf, hlt, hout⟩
    exact ⟨fs, f, hfs, ⟨hf, hlen, hbuf, _, hout⟩, hlt, hout⟩
  · rintro ⟨fs, f, hfs, ⟨hf, hlen, hbuf, _⟩, hlt, hout⟩
    exact ⟨fs, hfs, f, hf, hlen, hbuf, hlt, hout⟩

theorem wholeApdus_iff_of_not_send (hst : s.txState ≠ .send) :
    WholeApdus base s ↔ ∃ fs : List Instr, (∀ f ∈ fs, f.wf = true) ∧ s.outbound = base ++ fs.flatMap encode := by
  simp only [WholeApdus, if_neg hst]

/-- The form of the stream is a matter of the encoder's half only. -/
theorem WholeApdus.of_sameTx (hw : WholeApdus base s) (h : SameTx s t) : WholeApdus base t := by
  obtain ⟨hst, hlen, hidx, hbuf, _, hout, _⟩ := h
  simpa only [WholeApdus, hst, hlen, hidx, hbuf, hout] using hw

/-- With no frame in progress before or after, only the stream itself matters. -/
theorem WholeApdus.of_not_send (hw : WholeApdus base s) (hs : s.txState ≠ .send) (ht : t.txState ≠ .send)
    (hout : t.outbound = s.outbound) : WholeApdus base t := by
  rw [wholeApdus_iff_of_not_send hs] at hw
  rwa [wholeApdus_iff_of_not_send ht, hout]

/-! ## A frame begins, goes on and ends (R131, R132) -/

/-- An accepted frame is in progress with none of its octets sent (R131). -/
theorem WholeApdus.loadTx {f : Instr} (hw : WholeApdus base s) (hst : s.txState ≠ .send) (hf : f.wf = true) :
    WholeApdus base (s.loadTx (encode f)) := by
  obtain ⟨fs, hfs, hout⟩ := (wholeApdus_iff_of_not_send hst).1 hw
  have hsend : Sending f (s.loadTx (encode f)) := .of_loadTx hf
  refine (wholeApdus_iff_of_send rfl).2 ⟨fs, f, hfs, hsend, ?_, by simp [hout]⟩
  obtain ⟨_, hlen, _⟩ := hsend
  rw [hlen, encode_length, State.loadTx_txIdx, BitVec.toNat_zero]
  omega

/-- The octet at hand makes the sent part of the frame one octet longer (R132). -/
theorem Sending.take_append_nextTxOctet {f : Instr} {b : Octet} (hf : Sending f s)
    (hlt : s.txIdx.toNat < s.txLen.toNat) (hb : s.nextTxOctet = some b) :
    (encode f).take s.txIdx.toNat ++ [b] = (encode f).take (s.txIdx.toNat + 1) := by
  rw [hf.nextTxOctet hlt] at hb
  rw [List.take_add_one, hb, Option.toList_some]

/-- While a frame goes out, the octet emitted extends the stream by one more octet of that frame (R132). -/
theorem WholeApdus.emit_outbound {b : Octet} (hw : WholeApdus base s) (hst : s.txState = .send)
    (hb : s.nextTxOctet = some b) :
    ∃ (fs : List Instr) (f : Instr), (∀ g ∈ fs, g.wf = true) ∧ Sending f s ∧ s.txIdx.toNat < s.txLen.toNat ∧
      (s.emit b).outbound = base ++ fs.flatMap encode ++ (encode f).take (s.txIdx.toNat + 1) := by
  obtain ⟨fs, f, hfs, hf, hlt, hout⟩ := (wholeApdus_iff_of_send hst).1 hw
  refine ⟨fs, f, hfs, hf, hlt, ?_⟩
  rw [← hf.take_append_nextTxOctet hlt hb, State.emit_outbound, hout, List.append_assoc]

/-- The last octet makes the frame in progress one more whole APDU (R132). -/
theorem WholeApdus.emit_finishTx {b : Octet} (hw : WholeApdus base s) (hst : s.txState = .send)
    (hb : s.nextTxOctet = some b) (hc : s.txIdx.toNat + 1 = s.txLen.toNat) :
    WholeApdus base (s.emit b).finishTx := by
  obtain ⟨fs, f, hfs, ⟨hf, hlen, _, _⟩, _, hout⟩ := hw.emit_outbound hst hb
  rw [hc, hlen, List.take_length] at hout
  refine (wholeApdus_iff_of_not_send (by simp)).2 ⟨fs ++ [f], ?_, by simpa using hout⟩
  exact List.forall_mem_append.2 ⟨hfs, List.forall_mem_singleton.2 hf⟩

/-- An octet before the last leaves the same frame in progress (R132). -/
theorem WholeApdus.emit_advanceTx {b : Octet} (hw : WholeApdus base s) (hst : s.txState = .send)
    (hb : s.nextTxOctet = some b) (hc : s.txIdx.toNat + 1 ≠ s.txLen.toNat) :
    WholeApdus base (s.emit b).advanceTx := by
  obtain ⟨fs, f, hfs, hf, hlt, hout⟩ := hw.emit_outbound hst hb
  have hidx : (s.emit b).advanceTx.txIdx.toNat = s.txIdx.toNat + 1 := toNat_add_one (x := s.txIdx) (by omega)
  refine (wholeApdus_iff_of_send (by simp [hst])).2 ⟨fs, f, hfs, hf.advance hlt hb, ?_, ?_⟩
  · rw [hidx]
    exact Nat.lt_of_le_of_ne hlt hc
  · rw [hidx]
    exact hout

/-! ## Every step -/

/-- Settles O50: an RX event leaves the encoder's half alone, a `TxFrame` begins a frame or leaves the stream, and a `TxByte`
sends one more octet of the frame in progress; a `Reset` finds no frame to cut. -/
theorem outboundStaysWholeApdus : Obligations.OutboundStaysWholeApdus := by
  intro base s t hw h hreset
  cases step_transition h with
  | reset hs => exact hw.of_not_send (hreset (by simp [hs])) (by simp) rfl
  | rxStart hs | rxLen hs => exact hw.of_sameTx (rxEvent_sameTx (.inl (by simp [hs])) h)
  | txLoad _ _ _ hst hf => exact hw.loadTx (by simp [hst]) (denote_wf hf)
  | txReject _ _ _ hst => exact hw.of_not_send (by simp [hst]) (by simp) rfl
  | byteLast _ _ hst hb hc => exact hw.emit_finishTx hst hb hc
  | byteMore _ _ hst hb hc => exact hw.emit_advanceTx hst hb hc
  | _ => exact hw

end Sys2Proof.Machine
end

section
/-! PROOFS. The statements of 30_encoding.md: octet strings and frames (R80, R81, R85 to R87), the opcode map (R83, R84), and
the words of the opcode table (R73). -/

namespace Sys2Proof.Machine

/-! ## What an octet string begins with (R86) -/

/-- What an octet string begins with, one constructor per outcome of R101 to R105. -/
inductive Begins : List Octet → Decoded → Prop where
  /-- Nothing has come. -/
  | nothing : Begins [] .needMore
  /-- The start octet alone. -/
  | startOnly : Begins [Config.start] .needMore
  /-- The first octet is no start octet (R161). -/
  | badStart {b : Octet} {rest : List Octet} (hb : b ≠ Config.start) : Begins (b :: rest) (.error .invalidStartByte b)
  /-- The length octet is above 253 (R162). -/
  | tooLarge {l : Octet} {rest : List Octet} (hl : 253 < l.toNat) :
      Begins (Config.start :: l :: rest) (.error .frameTooLarge l)
  /-- The length octet is below 4 (R163). -/
  | tooShort {l : Octet} {rest : List Octet} (hl : l.toNat < 4) :
      Begins (Config.start :: l :: rest) (.error .frameTooShort l)
  /-- Part of a body has come (R103). -/
  | partialBody {l : Octet} {rest : List Octet} (h4 : 4 ≤ l.toNat) (h253 : l.toNat ≤ 253) (hl : rest.length < l.toNat) :
      Begins (Config.start :: l :: rest) .needMore
  /-- A whole body has come, and it is a frame (R104, Ok arm). -/
  | frame {l : Octet} {body rest : List Octet} {f : Instr} (hl : body.length = l.toNat)
      (hd : decodeBody body = some (.ok f)) : Begins (Config.start :: l :: (body ++ rest)) (.frame f rest)
  /-- A whole body has come, and it is no frame (R104, Err arm). -/
  | malformed {l : Octet} {body rest : List Octet} {e : ErrCode} {info : Octet} (hl : body.length = l.toNat)
      (hd : decodeBody body = some (.err e info)) : Begins (Config.start :: l :: (body ++ rest)) (.error e info)

theorem decodeApdu_start (l : Octet) (rest : List Octet) : decodeApdu (Config.start :: l :: rest) = decodeLength l rest :=
  rfl

/-- A legal length octet leaves the body to be judged (R102). -/
theorem decodeLength_legal {l : Octet} (rest : List Octet) (h4 : 4 ≤ l.toNat) (h253 : l.toNat ≤ 253) :
    decodeLength l rest = decodeAfterHeader l rest := by
  rw [decodeLength, if_neg (by simpa [Config.maxLen] using h253), if_neg (by simpa [Config.minLen] using h4)]

theorem decodeApdu_of_begins {bs : List Octet} {d : Decoded} (h : Begins bs d) : decodeApdu bs = d := by
  cases h with
  | nothing | startOnly => rfl
  | badStart hb => exact if_pos hb
  | tooLarge hl => exact if_pos hl
  | tooShort hl =>
    rw [decodeApdu_start, decodeLength, if_neg (by simp only [Config.maxLen]; omega)]
    exact if_pos hl
  | partialBody h4 h253 hl =>
    rw [decodeApdu_start, decodeLength_legal _ h4 h253]
    exact if_pos hl
  | @frame _ body _ _ hl hd | @malformed _ body _ _ _ hl hd =>
    obtain ⟨h4, h253⟩ := (decodeBody_isSome_iff body).1 (by simp [hd])
    rw [decodeApdu_start, decodeLength_legal _ (by omega) (by omega), decodeAfterHeader, if_neg (by simp [hl]), ← hl,
      List.take_left, List.drop_left, hd]

theorem exists_begins (bs : List Octet) : ∃ d, Begins bs d := by
  match bs with
  | [] => exact ⟨_, .nothing⟩
  | b :: bs =>
    by_cases hb : b = Config.start
    · subst hb
      match bs with
      | [] => exact ⟨_, .startOnly⟩
      | l :: rest =>
        by_cases hmax : 253 < l.toNat
        · exact ⟨_, .tooLarge hmax⟩
        by_cases hmin : l.toNat < 4
        · exact ⟨_, .tooShort hmin⟩
        by_cases hlen : rest.length < l.toNat
        · exact ⟨_, .partialBody (by omega) (by omega) hlen⟩
        have hl : (rest.take l.toNat).length = l.toNat := List.length_take_of_le (by omega)
        obtain ⟨c, hc⟩ := Option.isSome_iff_exists.1
          ((decodeBody_isSome_iff (rest.take l.toNat)).2 (by omega))
        rw [← List.take_append_drop l.toNat rest]
        cases c with
        | ok f => exact ⟨_, .frame hl hc⟩
        | err e info => exact ⟨_, .malformed hl hc⟩
    · exact ⟨_, .badStart hb⟩

/-- `Begins` says no more and no less than `decodeApdu`. -/
theorem decodeApdu_eq_iff {bs : List Octet} {d : Decoded} : decodeApdu bs = d ↔ Begins bs d := by
  refine ⟨?_, decodeApdu_of_begins⟩
  rintro rfl
  obtain ⟨d, hd⟩ := exists_begins bs
  rwa [decodeApdu_of_begins hd]

/-! ## Frames and their encodings (R87, R147) -/

/-- The length octet of a well-formed frame counts its body (R142). -/
theorem encodeBody_length_eq_toNat {f : Instr} (hf : f.wf = true) :
    (encodeBody f).length = (BitVec.ofNat 8 (encodeBody f).length).toNat := by
  have := encodeBody_length_le hf
  rw [BitVec.toNat_ofNat]
  omega

/-- An octet string begins with a frame exactly when it begins with that frame's encoding (R87). -/
theorem decodeApdu_eq_frame_iff {bs rest : List Octet} {f : Instr} :
    decodeApdu bs = .frame f rest ↔ f.wf = true ∧ bs = encode f ++ rest := by
  rw [decodeApdu_eq_iff]
  constructor
  · intro h
    cases h with
    | @frame l body _ _ hl hd =>
      obtain ⟨hf, rfl⟩ := decodeBody_eq_ok hd
      refine ⟨hf, ?_⟩
      rw [encode, hl, BitVec.ofNat_toNat, BitVec.setWidth_eq]
      rfl
  · rintro ⟨hf, rfl⟩
    exact .frame (encodeBody_length_eq_toNat hf) (decodeBody_encodeBody hf)

/-- Settles O1: one direction of `decodeApdu_eq_frame_iff`. -/
theorem encodedFramesDecodeBack : Obligations.EncodedFramesDecodeBack :=
  fun _ _ hf => decodeApdu_eq_frame_iff.2 ⟨hf, rfl⟩

/-- Settles O2: `decodeApdu_eq_frame_iff` with nothing left over; both strings are then the frame's one encoding. -/
theorem acceptedStringsAreTheEncodings : Obligations.AcceptedStringsAreTheEncodings := by
  have accepted_iff (bs : List Octet) (f : Instr) : decodeApdu bs = .frame f [] ↔ f.wf = true ∧ bs = encode f := by
    rw [decodeApdu_eq_frame_iff, List.append_nil]
  refine ⟨accepted_iff, fun bs cs f hb hc => ?_⟩
  obtain ⟨_, hbs⟩ := (accepted_iff bs f).1 hb
  obtain ⟨_, hcs⟩ := (accepted_iff cs f).1 hc
  rw [hbs, hcs]

/-! ## Control words octet by octet (R73) -/

theorem controlWord_inj {a b c d a' b' c' d' : Octet} :
    controlWord a b c d = controlWord a' b' c' d' ↔ a = a' ∧ b = b' ∧ c = c' ∧ d = d' := by
  constructor
  · intro h
    have hn := congrArg BitVec.toNat h
    simp only [controlWord_toNat] at hn
    simp only [BitVec.toNat_eq]
    omega
  · rintro ⟨rfl, rfl, rfl, rfl⟩
    rfl

theorem controlWord_and (a b c d a' b' c' d' : Octet) :
    controlWord a b c d &&& controlWord a' b' c' d' = controlWord (a &&& a') (b &&& b') (c &&& c') (d &&& d') := by
  simp only [controlWord, ← BitVec.and_append]

theorem octet_and_one_eq_zero_iff (x : Octet) : x &&& 1#8 = 0#8 ↔ x.getLsbD 0 = false := by
  rw [BitVec.and_one_eq_setWidth_ofBool_getLsbD]
  cases x.getLsbD 0 <;> decide

theorem octet_and_ff (x : Octet) : x &&& 0xFF#8 = x :=
  BitVec.and_allOnes

/-! ## The rows of the opcode map (R83) -/

/-- The row of the I-format: two format bits are fixed. -/
def iRow : OpcodeRow where
  mnemonic := "I"
  mask := controlWord 0x01#8 0x00#8 0x01#8 0x00#8
  pat := controlWord 0x00#8 0x00#8 0x00#8 0x00#8

/-- The row of the S-format: `CF1` and `CF2` are fixed, and a format bit of `CF3`. -/
def sRow : OpcodeRow where
  mnemonic := "S"
  mask := controlWord 0xFF#8 0xFF#8 0x01#8 0x00#8
  pat := controlWord 0x01#8 0x00#8 0x00#8 0x00#8

/-- The row of the U function `f` with the pattern `cf1` (R82): the whole word is fixed. -/
def uRow (f : Instr) (cf1 : Octet) : OpcodeRow where
  mnemonic := f.mnemonic
  mask := controlWord 0xFF#8 0xFF#8 0xFF#8 0xFF#8
  pat := controlWord cf1 0x00#8 0x00#8 0x00#8

/-- The six U functions with their patterns (R82). -/
def uFunctions : List (Instr × Octet) :=
  [(.startdtAct, 0x07#8), (.startdtCon, 0x0B#8), (.stopdtAct, 0x13#8), (.stopdtCon, 0x23#8), (.testfrAct, 0x43#8),
    (.testfrCon, 0x83#8)]

theorem uFrameOf_eq_some_iff {cf1 : Octet} {f : Instr} : uFrameOf cf1 = some f ↔ (f, cf1) ∈ uFunctions := by
  constructor
  · intro h
    unfold uFrameOf at h
    split_ifs at h <;> cases h <;> simp [uFunctions, *]
  · have h : ∀ p ∈ uFunctions, uFrameOf p.2 = some p.1 := by decide
    exact h (f, cf1)

/-- A U pattern has both format bits set (R74). -/
theorem uFrameOf_format_bits {cf1 : Octet} {f : Instr} (h : uFrameOf cf1 = some f) :
    cf1.getLsbD 0 = true ∧ cf1.getLsbD 1 = true := by
  have hbits : ∀ p ∈ uFunctions, p.2.getLsbD 0 = true ∧ p.2.getLsbD 1 = true := by decide
  exact hbits (f, cf1) (uFrameOf_eq_some_iff.1 h)

theorem uFrameOf_mnemonic_ne {cf1 : Octet} {f : Instr} (h : uFrameOf cf1 = some f) : f.mnemonic ≠ "I" := by
  have hne : ∀ p ∈ uFunctions, p.1.mnemonic ≠ "I" := by decide
  exact hne (f, cf1) (uFrameOf_eq_some_iff.1 h)

theorem opcodeTable_eq : opcodeTable = iRow :: sRow :: uFunctions.map fun p => uRow p.1 p.2 := by
  decide

/-- The rows of the map are that of I, that of S, and one for each U function. -/
theorem mem_opcodeTable_iff {r : OpcodeRow} :
    r ∈ opcodeTable ↔ r = iRow ∨ r = sRow ∨ ∃ f cf1, uFrameOf cf1 = some f ∧ r = uRow f cf1 := by
  simp only [opcodeTable_eq, List.mem_cons, List.mem_map, Prod.exists, uFrameOf_eq_some_iff, eq_comm (b := r)]

theorem iRow_mem : iRow ∈ opcodeTable :=
  mem_opcodeTable_iff.2 (.inl rfl)

theorem sRow_mem : sRow ∈ opcodeTable :=
  mem_opcodeTable_iff.2 (.inr (.inl rfl))

theorem uRow_mem {f : Instr} {cf1 : Octet} (h : uFrameOf cf1 = some f) : uRow f cf1 ∈ opcodeTable :=
  mem_opcodeTable_iff.2 (.inr (.inr ⟨f, cf1, h, rfl⟩))

/-! ## When a row matches -/

section Matching

variable {cf1 cf2 cf3 cf4 : Octet}

theorem iRow_matches_iff :
    iRow.matchesWord (controlWord cf1 cf2 cf3 cf4) = true ↔ cf1.getLsbD 0 = false ∧ cf3.getLsbD 0 = false := by
  simp only [OpcodeRow.matchesWord, iRow, decide_eq_true_eq, controlWord_and, controlWord_inj, octet_and_one_eq_zero_iff,
    BitVec.and_zero, true_and, and_true]

theorem sRow_matches_iff :
    sRow.matchesWord (controlWord cf1 cf2 cf3 cf4) = true ↔
      cf1 = 0x01#8 ∧ cf2 = 0x00#8 ∧ cf3.getLsbD 0 = false := by
  simp only [OpcodeRow.matchesWord, sRow, decide_eq_true_eq, controlWord_and, controlWord_inj, octet_and_one_eq_zero_iff,
    octet_and_ff, BitVec.and_zero, and_true]

theorem uRow_matches_iff {f : Instr} {p : Octet} :
    (uRow f p).matchesWord (controlWord cf1 cf2 cf3 cf4) = true ↔
      cf1 = p ∧ cf2 = 0x00#8 ∧ cf3 = 0x00#8 ∧ cf4 = 0x00#8 := by
  simp only [OpcodeRow.matchesWord, uRow, decide_eq_true_eq, controlWord_and, controlWord_inj, octet_and_ff]

/-- No two rows match one word: they disagree on a bit that both masks keep. -/
theorem matching_rows_eq {r r' : OpcodeRow} {cw : BitVec 32} (hr : r ∈ opcodeTable) (hr' : r' ∈ opcodeTable)
    (hm : r.matchesWord cw = true) (hm' : r'.matchesWord cw = true) : r = r' := by
  have hpats : ∀ r ∈ opcodeTable, ∀ r' ∈ opcodeTable, r.pat &&& r'.mask = r'.pat &&& r.mask → r = r' := by decide
  apply hpats r hr r' hr'
  rw [OpcodeRow.matchesWord, decide_eq_true_eq] at hm hm'
  rw [← hm, ← hm', BitVec.and_assoc, BitVec.and_assoc, BitVec.and_comm r.mask]

/-! ## What the map makes of a body (R83, R84) -/

theorem decodeBody_eq_classify {asdu : List Octet} (h : asdu.length ≤ 249) :
    decodeBody (cf1 :: cf2 :: cf3 :: cf4 :: asdu) = some (classify cf1 cf2 cf3 cf4 asdu) :=
  if_pos h

theorem classify_of_iRow (asdu : List Octet) (hm : iRow.matchesWord (controlWord cf1 cf2 cf3 cf4) = true) :
    classify cf1 cf2 cf3 cf4 asdu = .ok (.i (seqOf cf1 cf2) (seqOf cf3 cf4) asdu) := by
  obtain ⟨h1, h3⟩ := iRow_matches_iff.1 hm
  rw [classify, if_pos h1, classifyI, h3, if_neg Bool.false_ne_true]

theorem classify_of_sRow (asdu : List Octet) (hm : sRow.matchesWord (controlWord cf1 cf2 cf3 cf4) = true) :
    classify cf1 cf2 cf3 cf4 asdu =
      if asdu = [] then .ok (.s (seqOf cf3 cf4)) else .err .unexpectedPayload (BitVec.ofNat 8 (4 + asdu.length)) := by
  obtain ⟨rfl, rfl, h3⟩ := sRow_matches_iff.1 hm
  rw [classify, if_neg (by decide), if_pos (by decide), classifyS, h3, if_neg (by decide)]
  exact ite_not _ _ _

theorem classify_of_uRow {f : Instr} {p : Octet} (asdu : List Octet) (hf : uFrameOf p = some f)
    (hm : (uRow f p).matchesWord (controlWord cf1 cf2 cf3 cf4) = true) :
    classify cf1 cf2 cf3 cf4 asdu =
      if asdu = [] then .ok f else .err .unexpectedPayload (BitVec.ofNat 8 (4 + asdu.length)) := by
  obtain ⟨rfl, rfl, rfl, rfl⟩ := uRow_matches_iff.1 hm
  obtain ⟨h0, h1⟩ := uFrameOf_format_bits hf
  rw [classify, h0, h1, if_neg (by decide), if_neg (by decide), classifyU, if_neg (by decide), hf]
  exact ite_not _ _ _

/-- A matched row decides the frame, and all but the I row refuse octets after the control field (R84). -/
theorem classify_of_row {r : OpcodeRow} (asdu : List Octet) (hr : r ∈ opcodeTable)
    (hm : r.matchesWord (controlWord cf1 cf2 cf3 cf4) = true) :
    ∃ f : Instr, f.mnemonic = r.mnemonic ∧ classify cf1 cf2 cf3 cf4 asdu =
      if r.mnemonic = "I" ∨ asdu = [] then .ok f else .err .unexpectedPayload (BitVec.ofNat 8 (4 + asdu.length)) := by
  rcases mem_opcodeTable_iff.1 hr with rfl | rfl | ⟨f, p, hf, rfl⟩
  · exact ⟨_, rfl, (classify_of_iRow asdu hm).trans (if_pos (.inl rfl)).symm⟩
  · have hne : sRow.mnemonic ≠ "I" := by decide
    exact ⟨.s (seqOf cf3 cf4), rfl, by simp only [classify_of_sRow asdu hm, hne, false_or]⟩
  · have hne : (uRow f p).mnemonic ≠ "I" := uFrameOf_mnemonic_ne hf
    exact ⟨f, rfl, by simp only [classify_of_uRow asdu hf hm, hne, false_or]⟩

/-- Where no row matches, the control field is invalid (R86). -/
theorem classify_of_no_row (asdu : List Octet)
    (hno : ∀ r ∈ opcodeTable, r.matchesWord (controlWord cf1 cf2 cf3 cf4) = false) :
    classify cf1 cf2 cf3 cf4 asdu = .err .invalidControlField cf1 := by
  have hrow {r : OpcodeRow} (hr : r ∈ opcodeTable) (hm : r.matchesWord (controlWord cf1 cf2 cf3 cf4) = true) : False := by
    simp [hno r hr] at hm
  by_cases h0 : cf1.getLsbD 0 = false
  · rw [classify, if_pos h0]
    exact if_pos (Bool.eq_true_of_not_eq_false fun h3 => hrow iRow_mem (iRow_matches_iff.2 ⟨h0, h3⟩))
  rw [classify, if_neg h0]
  by_cases h1 : cf1.getLsbD 1 = false
  · rw [if_pos h1]
    refine if_pos (by_contra fun hS => hrow sRow_mem (sRow_matches_iff.2 ?_))
    push Not at hS
    obtain ⟨hcf1, hcf2, h3⟩ := hS
    exact ⟨hcf1, hcf2, Bool.eq_false_of_not_eq_true h3⟩
  rw [if_neg h1]
  by_cases hz : cf2 ≠ 0x00#8 ∨ cf3 ≠ 0x00#8 ∨ cf4 ≠ 0x00#8
  · exact if_pos hz
  rw [classifyU, if_neg hz]
  push Not at hz
  cases hf : uFrameOf cf1 with
  | none => rfl
  | some f => exact (hrow (uRow_mem hf) (uRow_matches_iff.2 ⟨rfl, hz⟩)).elim

end Matching

/-- Settles O3: the rows exclude each other, and `classify` follows the matching one. -/
theorem opcodeMapDecidesTheFrame : Obligations.OpcodeMapDecidesTheFrame := by
  intro cf1 cf2 cf3 cf4 asdu hlen
  rw [decodeBody_eq_classify hlen]
  refine ⟨fun r hr r' hr' hm hm' => matching_rows_eq hr hr' hm hm', fun r hr hm => ?_,
    fun hno => congrArg some (classify_of_no_row asdu hno)⟩
  obtain ⟨f, hf, hc⟩ := classify_of_row asdu hr hm
  split_ifs with h
  · rw [if_pos h] at hc
    exact ⟨f, congrArg some hc, hf, (classify_eq_ok hc).2⟩
  · rw [hc, if_neg h]

/-! ## Errors (R86) -/

/-- The two errors a complete body can have (R86 rows 4 to 7). -/
theorem classify_eq_err_iff {cf1 cf2 cf3 cf4 : Octet} {asdu : List Octet} {e : ErrCode} {info : Octet} :
    classify cf1 cf2 cf3 cf4 asdu = .err e info ↔
      (e = .invalidControlField ∧ info = cf1 ∧
        ∀ r ∈ opcodeTable, r.matchesWord (controlWord cf1 cf2 cf3 cf4) = false) ∨
      (e = .unexpectedPayload ∧ info = BitVec.ofNat 8 (4 + asdu.length) ∧ asdu ≠ [] ∧
        ∃ r ∈ opcodeTable, r.mnemonic ≠ "I" ∧ r.matchesWord (controlWord cf1 cf2 cf3 cf4) = true) := by
  constructor
  · intro h
    by_cases hrow : ∃ r ∈ opcodeTable, r.matchesWord (controlWord cf1 cf2 cf3 cf4) = true
    · obtain ⟨r, hr, hm⟩ := hrow
      obtain ⟨f, _, hc⟩ := classify_of_row asdu hr hm
      rw [hc] at h
      split_ifs at h with hI
      obtain ⟨hne, hasdu⟩ := not_or.1 hI
      cases h
      exact .inr ⟨rfl, rfl, hasdu, r, hr, hne, hm⟩
    · have hno : ∀ r ∈ opcodeTable, r.matchesWord (controlWord cf1 cf2 cf3 cf4) = false := by simpa using hrow
      rw [classify_of_no_row asdu hno] at h
      cases h
      exact .inl ⟨rfl, rfl, hno⟩
  · rintro (⟨rfl, rfl, hno⟩ | ⟨rfl, rfl, hasdu, r, hr, hne, hm⟩)
    · exact classify_of_no_row asdu hno
    · obtain ⟨f, _, hc⟩ := classify_of_row asdu hr hm
      rw [hc, if_neg (not_or.2 ⟨hne, hasdu⟩)]

theorem decodeBody_eq_err_iff {body : List Octet} {e : ErrCode} {info : Octet} :
    decodeBody body = some (.err e info) ↔ ∃ cf1 cf2 cf3 cf4 asdu, body = cf1 :: cf2 :: cf3 :: cf4 :: asdu ∧
      asdu.length ≤ 249 ∧ classify cf1 cf2 cf3 cf4 asdu = .err e info := by
  constructor
  · intro h
    obtain ⟨h4, h253⟩ := (decodeBody_isSome_iff body).1 (by simp [h])
    obtain ⟨cf1, cf2, cf3, cf4, asdu, rfl⟩ := exists_four h4
    have hlen : asdu.length ≤ 249 := by
      simp only [List.length_cons] at h253
      omega
    rw [decodeBody_eq_classify hlen] at h
    exact ⟨cf1, cf2, cf3, cf4, asdu, rfl, hlen, Option.some.inj h⟩
  · rintro ⟨cf1, cf2, cf3, cf4, asdu, rfl, hlen, hc⟩
    rw [decodeBody_eq_classify hlen, hc]

/-- Settles O8: by the constructors of `Begins` that end in an error; a malformed body is one of the two of
`classify_eq_err_iff`. -/
theorem errorsAreExactlyTheListed : Obligations.ErrorsAreExactlyTheListed := by
  intro bs e info
  rw [decodeApdu_eq_iff]
  constructor
  · intro h
    cases h with
    | badStart hb => exact .inl ⟨_, _, rfl, hb, rfl, rfl⟩
    | tooLarge hl => exact .inr (.inl ⟨_, _, rfl, hl, rfl, rfl⟩)
    | tooShort hl => exact .inr (.inr (.inl ⟨_, _, rfl, hl, rfl, rfl⟩))
    | @malformed l _ rest _ _ hl hd =>
      obtain ⟨cf1, cf2, cf3, cf4, asdu, rfl, hlen, hc⟩ := decodeBody_eq_err_iff.1 hd
      have hl' : l.toNat = 4 + asdu.length := by
        simp only [List.length_cons] at hl
        omega
      refine .inr (.inr (.inr ⟨l, cf1, cf2, cf3, cf4, asdu, rest, rfl, hl', by omega, ?_⟩))
      rw [classify_eq_err_iff, ← hl', BitVec.ofNat_toNat, BitVec.setWidth_eq] at hc
      rcases hc with hc | ⟨he, hinfo, hasdu, hrow⟩
      · exact .inl hc
      · have := List.length_pos_iff.2 hasdu
        exact .inr ⟨he, hinfo, by omega, hrow⟩
  · rintro (⟨b, rest, rfl, hb, rfl, rfl⟩ | ⟨l, rest, rfl, hl, rfl, rfl⟩ | ⟨l, rest, rfl, hl, rfl, rfl⟩ |
      ⟨l, cf1, cf2, cf3, cf4, asdu, rest, rfl, hl, h253, hc⟩)
    · exact .badStart hb
    · exact .tooLarge hl
    · exact .tooShort hl
    · have hd : decodeBody (cf1 :: cf2 :: cf3 :: cf4 :: asdu) = some (.err e info) := by
        refine decodeBody_eq_err_iff.2 ⟨_, _, _, _, _, rfl, by omega, classify_eq_err_iff.2 ?_⟩
        rw [← hl, BitVec.ofNat_toNat, BitVec.setWidth_eq]
        rcases hc with hc | ⟨he, hinfo, h4, hrow⟩
        · exact .inl hc
        · exact .inr ⟨he, hinfo, List.length_pos_iff.1 (by omega), hrow⟩
      exact .malformed (rest := rest) (by simp only [List.length_cons]; omega) hd

/-! ## The equations of the encoder (R81, R82) -/

/-- Settles O5: the two octets of a number by `seqLo_eq` and `seqHi_eq`, the six patterns by evaluation. -/
theorem encodeIsTheEightEquations : Obligations.EncodeIsTheEightEquations := by
  refine ⟨fun ns nr asdu => ?_, fun nr => ?_, by decide⟩
  · rw [encode, encodeBody_length, encodeBody, seqLo_eq, seqHi_eq, seqLo_eq, seqHi_eq]
    rfl
  · rw [encode, encodeBody, seqLo_eq, seqHi_eq]
    rfl

/-! ## A frame's last octet at hand (R104) -/

section LastOctet

variable {s : State} {b : Octet} {body : List Octet} {f : Instr}

/-- Where the last octet completes the body of a frame, that frame is held and put out. -/
theorem RxLastAtHand.transition (h : RxLastAtHand b body s) (hd : decodeBody body = some (.ok f)) :
    Transition s ((s.storeRx b).deliver f).consume.retire := by
  obtain ⟨⟨hr, hs, hin⟩, hst, hcnt, hlen, hbody⟩ := h
  obtain ⟨_, hs⟩ := List.head?_eq_some_iff.1 hs
  obtain ⟨_, hin⟩ := List.head?_eq_some_iff.1 hin
  exact .rxFrame hs hr hin hst (by omega) hcnt hbody hd

/-- Running a frame where a last octet is at hand delivers it. -/
theorem RxLastAtHand.exec_eq (h : RxLastAtHand b body s) (f : Instr) :
    exec f s = .next ((s.storeRx b).deliver f).consume.retire := by
  obtain ⟨⟨_, hs, hin⟩, hst, hcnt, hlen, _⟩ := h
  obtain ⟨_, hs⟩ := List.head?_eq_some_iff.1 hs
  obtain ⟨_, hin⟩ := List.head?_eq_some_iff.1 hin
  rw [exec_rx f hs, receiveFrame_lastOctet hin hst hcnt (by omega)]

/-- The frame just delivered is the one held. -/
theorem RxLastAtHand.heldFrame (h : RxLastAtHand b body s) (hd : decodeBody body = some (.ok f)) :
    ((s.storeRx b).deliver f).consume.retire.heldFrame = some f := by
  obtain ⟨_, _, _, _, hbody⟩ := h
  exact (heldFrame_eq_some_iff _ f).2 ⟨rfl, body, hbody, hd⟩

end LastOctet

/-! ## Words placed for fetching (R73) -/

section Placed

variable (s : State) (front : List Octet) (b : Octet)

theorem placeBody_concat_inbound : (s.placeBody (front ++ [b])).inbound = b :: s.inbound := by
  simp [State.placeBody]

theorem placeBody_concat_rxBuf : (s.placeBody (front ++ [b])).rxBuf = s.rxBuf.writeAll 0 front := by
  simp [State.placeBody]

theorem placeBody_concat_rxCnt (h : front.length < 253) : (s.placeBody (front ++ [b])).rxCnt.toNat = front.length := by
  simp only [State.placeBody, List.length_append, List.length_singleton, BitVec.toNat_ofNat]
  omega

theorem placeBody_concat_rxLen (h : front.length < 253) :
    (s.placeBody (front ++ [b])).rxLen.toNat = front.length + 1 := by
  simp only [State.placeBody, List.length_append, List.length_singleton, BitVec.toNat_ofNat]
  omega

/-- A placed body waits for its last octet, which is at hand. -/
theorem rxLastAtHand_placeBody (h : front.length < 253) :
    RxLastAtHand b (front ++ [b]) (s.placeBody (front ++ [b])) := by
  have hcnt := placeBody_concat_rxCnt s front b h
  have hlen := placeBody_concat_rxLen s front b h
  refine ⟨⟨rfl, rfl, by rw [placeBody_concat_inbound, List.head?_cons]⟩, rfl, by omega, by omega, ?_⟩
  have hfront : (s.rxBuf.writeAll 0 front).readRange 0 front.length = some front := Memory.readRange_writeAll _ 0 front
  rw [hlen, hcnt, placeBody_concat_rxBuf]
  simpa using Memory.readRange_write_end b hfront

end Placed

theorem decodeTableWord_eq_some {nbits w : Nat} {f : Instr} (h : decodeTableWord nbits w = some f) :
    decodeBody (tableOctets nbits w) = some (.ok f) := by
  unfold decodeTableWord at h
  split at h <;> cases h
  assumption

/-- Settles O18: the last octet of the placed word is at hand, and completes the word's frame. -/
theorem placedWordsRunNext : Obligations.PlacedWordsRunNext := by
  intro s nbits w f hw
  have hd := decodeTableWord_eq_some hw
  obtain ⟨h4, h253⟩ := (decodeBody_isSome_iff _).1 (Option.isSome_iff_exists.2 ⟨_, hd⟩)
  rw [State.withFetchWord]
  rcases List.eq_nil_or_concat' (tableOctets nbits w) with hnil | ⟨front, b, hbody⟩
  · simp [hnil] at h4
  · rw [hbody] at hd h253 ⊢
    have hlast := rxLastAtHand_placeBody s front b (by simpa [Nat.succ_le_iff] using h253)
    have hstep := step_of_transition (hlast.transition hd)
    exact ⟨hstep.trans (hlast.exec_eq f).symm, _, hstep, hlast.heldFrame hd, rfl⟩

end Sys2Proof.Machine
end

section
/-! PROOFS. The statements of 40_decoder.md: `classify` as the rule writes it (R105), the step rules of the decoder (R100 to
R108), the frame kinds at their last octet (R110 to R117), and what a stream of octets leads to (R118 to R122, R148). -/

namespace Sys2Proof.Machine

variable {s t : State} {evs : List EventKind} {p r : List Octet} {b : Octet}

/-! ## `classify` format by format (R105) -/

section Classify

variable {cf1 : Octet} (cf2 cf3 cf4 : Octet) (asdu : List Octet)

theorem classify_of_i (h0 : cf1.getLsbD 0 = false) : classify cf1 cf2 cf3 cf4 asdu = classifyI cf1 cf2 cf3 cf4 asdu :=
  if_pos h0

theorem classify_of_s (h0 : cf1.getLsbD 0 = true) (h1 : cf1.getLsbD 1 = false) :
    classify cf1 cf2 cf3 cf4 asdu = classifyS cf1 cf2 cf3 cf4 asdu := by
  rw [classify, if_neg (by simp [h0]), if_pos h1]

theorem classify_of_u (h0 : cf1.getLsbD 0 = true) (h1 : cf1.getLsbD 1 = true) :
    classify cf1 cf2 cf3 cf4 asdu = classifyU cf1 cf2 cf3 cf4 asdu := by
  rw [classify, if_neg (by simp [h0]), if_neg (by simp [h1])]

end Classify

/-- No U function has a pattern outside the six (R82). -/
theorem uFrameOf_eq_none_iff {cf1 : Octet} :
    uFrameOf cf1 = none ↔ cf1 ∉ [0x07#8, 0x0B#8, 0x13#8, 0x23#8, 0x43#8, 0x83#8] := by
  have hmap : uFunctions.map Prod.snd = [0x07#8, 0x0B#8, 0x13#8, 0x23#8, 0x43#8, 0x83#8] := rfl
  rw [← hmap, Option.eq_none_iff_forall_ne_some]
  simp only [List.mem_map, Prod.exists, exists_eq_right, ne_eq, uFrameOf_eq_some_iff, not_exists]

/-- A U-format word that is no pattern, or has another bit set, is an `InvalidControlField` (R105). -/
theorem classifyU_invalid {cf1 cf2 cf3 cf4 : Octet} (asdu : List Octet)
    (h : cf1 ∉ [0x07#8, 0x0B#8, 0x13#8, 0x23#8, 0x43#8, 0x83#8] ∨ cf2 ≠ 0#8 ∨ cf3 ≠ 0#8 ∨ cf4 ≠ 0#8) :
    classifyU cf1 cf2 cf3 cf4 asdu = .err .invalidControlField cf1 := by
  rw [classifyU]
  split
  · rfl
  · rename_i hz
    rw [uFrameOf_eq_none_iff.2 (h.resolve_right hz)]

theorem getLsbD_zero_iff_mod (x : Octet) (v : Bool) : x.getLsbD 0 = v ↔ x.toNat % 2 = v.toNat := by
  rw [← BitVec.testBit_toNat, Nat.testBit_zero]
  cases v <;> simp

theorem getLsbD_one_iff_div_mod (x : Octet) (v : Bool) : x.getLsbD 1 = v ↔ x.toNat / 2 % 2 = v.toNat := by
  rw [← BitVec.testBit_toNat, Nat.testBit_succ, Nat.testBit_zero]
  cases v <;> simp

/-- The number in two octets, with the rule's own shifts (R105). -/
theorem eq_seqOf_of_shifts {n : SeqNum} {lo hi : Octet} (h : n.toNat = (hi.toNat <<< 7) ||| (lo.toNat >>> 1)) :
    n = seqOf lo hi := by
  have hlo := lo.isLt
  rw [← Nat.shiftLeft_add_eq_or_of_lt (by rw [Nat.shiftRight_eq_div_pow]; omega), Nat.shiftLeft_eq,
    Nat.shiftRight_eq_div_pow] at h
  exact BitVec.eq_of_toNat_eq (h.trans (seqOf_toNat lo hi).symm)

theorem four_add_length_ne_iff (asdu : List Octet) : 4 + asdu.length ≠ 4 ↔ asdu ≠ [] := by
  rw [ne_eq, Nat.add_eq_left, List.length_eq_zero_iff]

/-- Settles O4: in each format the rule's tests are those of `classify`, bit by bit. -/
theorem classifyIsTheRulesChain : Obligations.ClassifyIsTheRulesChain := by
  intro cf1 cf2 cf3 cf4 asdu ns nr hlen hns hnr
  rw [decodeBody_eq_classify hlen, eq_seqOf_of_shifts hns, eq_seqOf_of_shifts hnr]
  congr 1
  have hbit3 : cf3.toNat % 2 = 1 ↔ cf3.getLsbD 0 = true := (getLsbD_zero_iff_mod cf3 true).symm
  simp only [hbit3, four_add_length_ne_iff]
  by_cases h0 : cf1.toNat % 2 = 0
  · rw [if_pos h0]
    exact classify_of_i cf2 cf3 cf4 asdu ((getLsbD_zero_iff_mod cf1 false).2 h0)
  rw [if_neg h0]
  have h0 : cf1.getLsbD 0 = true := (getLsbD_zero_iff_mod cf1 true).2 (Nat.mod_two_ne_zero.1 h0)
  by_cases h1 : cf1.toNat / 2 % 2 = 0
  · rw [if_pos h1]
    exact classify_of_s cf2 cf3 cf4 asdu h0 ((getLsbD_one_iff_div_mod cf1 false).2 h1)
  rw [if_neg h1, classify_of_u cf2 cf3 cf4 asdu h0 ((getLsbD_one_iff_div_mod cf1 true).2 (Nat.mod_two_ne_zero.1 h1))]
  by_cases hbad : cf1 ∉ [0x07#8, 0x0B#8, 0x13#8, 0x23#8, 0x43#8, 0x83#8] ∨ cf2 ≠ 0#8 ∨ cf3 ≠ 0#8 ∨ cf4 ≠ 0#8
  · rw [classifyU_invalid asdu hbad, if_pos (by tauto)]
  rw [if_neg (by tauto)]
  push Not at hbad
  obtain ⟨hmem, hcf2, hcf3, hcf4⟩ := hbad
  obtain ⟨f, hf⟩ := Option.ne_none_iff_exists'.1 fun h => uFrameOf_eq_none_iff.1 h hmem
  have hpattern : ∀ q ∈ uFunctions, Classified.ok q.1 =
      if q.2 = 0x07#8 then .ok .startdtAct
      else if q.2 = 0x0B#8 then .ok .startdtCon
      else if q.2 = 0x13#8 then .ok .stopdtAct
      else if q.2 = 0x23#8 then .ok .stopdtCon
      else if q.2 = 0x43#8 then .ok .testfrAct
      else .ok .testfrCon := by decide
  rw [classifyU, if_neg (by simp [hcf2, hcf3, hcf4]), hf, ← hpattern _ (uFrameOf_eq_some_iff.1 hf)]
  rfl

/-! ## `RxByte` at hand -/

theorem RxAtHand.lists (h : RxAtHand b s) :
    s.resetDone = true ∧ (∃ evs, s.schedule = .rxByte :: evs) ∧ ∃ bs, s.inbound = b :: bs := by
  obtain ⟨hr, hs, hin⟩ := h
  exact ⟨hr, List.head?_eq_some_iff.1 hs, List.head?_eq_some_iff.1 hin⟩

/-- Settles O20: the two arms of `startOctet`. -/
theorem startOctetRule : Obligations.StartOctetRule := by
  intro s b h hst
  obtain ⟨hr, ⟨evs, hs⟩, bs, hin⟩ := h.lists
  rw [step_of_transition (.rxStart hs hr hin hst)]
  by_cases hb : b = 0x68#8
  · rw [startOctet, if_pos hb, if_pos (show b = Config.start from hb)]
    rfl
  · rw [startOctet, if_neg hb, if_neg (show b ≠ Config.start from hb)]
    rfl

/-- Settles O21: the three arms of `lengthOctet`. -/
theorem lengthOctetRule : Obligations.LengthOctetRule := by
  intro s b h hst
  obtain ⟨hr, ⟨evs, hs⟩, bs, hin⟩ := h.lists
  rw [step_of_transition (.rxLen hs hr hin hst), lengthOctet]
  by_cases hmax : 253 < b.toNat
  · rw [if_pos hmax, if_pos (show Config.maxLen < b.toNat from hmax)]
    rfl
  rw [if_neg hmax, if_neg (show ¬ Config.maxLen < b.toNat from hmax)]
  by_cases hmin : b.toNat < 4
  · rw [if_pos hmin, if_pos (show b.toNat < Config.minLen from hmin)]
    rfl
  · rw [if_neg hmin, if_neg (show ¬ b.toNat < Config.minLen from hmin)]
    rfl

/-- Settles O22: the octet is stored where the count says. -/
theorem bodyOctetRule : Obligations.BodyOctetRule := by
  intro s b h hst hlen hc
  obtain ⟨hr, ⟨evs, hs⟩, bs, hin⟩ := h.lists
  exact step_of_transition (.rxMore hs hr hin hst (by omega) hc)

/-! ## The last octet of a body -/

section LastOctet

variable {body : List Octet} {f : Instr}

/-- Where the last octet completes a body that is no frame, the error is entered (R104, Err arm). -/
theorem RxLastAtHand.step_malformed {e : ErrCode} {info : Octet} (h : RxLastAtHand b body s)
    (hd : decodeBody body = some (.err e info)) : step s = .next (malformed e info b s) := by
  obtain ⟨hb, hst, hcnt, hlen, hbody⟩ := h
  obtain ⟨hr, ⟨evs, hs⟩, bs, hin⟩ := hb.lists
  exact step_of_transition (.rxMalformed hs hr hin hst (by omega) hcnt hbody hd)

theorem RxLastAtHand.received_heldFrame (h : RxLastAtHand b body s) (hd : decodeBody body = some (.ok f)) :
    (received f b s).heldFrame = some f :=
  h.heldFrame hd

/-- A frame completes at its last octet, and the frame outputs present it (R36, R104). -/
theorem RxLastAtHand.completes (h : RxLastAtHand b body s) (hd : decodeBody body = some (.ok f)) :
    step s = exec f s ∧ exec f s = .next (received f b s) ∧ (received f b s).frmValid = true ∧
      ∀ k, (received f b s).frameOut k =
        { kind := kindCode f, ufunc := ufuncCode f, ns := nsField f, nr := nrField f, asduLen := s.rxLen - 4#8 } :=
  ⟨(step_of_transition (h.transition hd)).trans (h.exec_eq f).symm, h.exec_eq f, rfl,
    fun k => frameOut_of_held k (h.received_heldFrame hd)⟩

/-- The ASDU outputs of a held frame are its ASDU octets (R36): they are the cells past the control field. -/
theorem getElem?_asdu_of_held {k : Nat} {a : BitVec 8} (h : s.heldFrame = some f) (ha : a.toNat < f.asdu.length) :
    f.asdu[a.toNat]? = some (s.asduData k a) := by
  obtain ⟨_, body, hbody, hd⟩ := (heldFrame_eq_some_iff s f).1 h
  obtain ⟨hlen, hcells⟩ := Memory.readRange_eq_some_iff.1 hbody
  obtain ⟨_, rfl⟩ := decodeBody_eq_ok hd
  rw [encodeBody_length] at hlen
  have hread : s.rxBuf.read (4 + a.toNat) = f.asdu[a.toNat]? := by
    simpa [encodeBody_getElem?_asdu] using hcells (4 + a.toNat) (by omega)
  have hasdu : f.asdu[a.toNat]? = some f.asdu[a.toNat] := List.getElem?_eq_getElem ha
  rw [asduData_of_held k h (by omega) (hread.trans hasdu), hasdu]

theorem RxLastAtHand.length_eq (h : RxLastAtHand b body s) : body.length = s.rxLen.toNat := by
  obtain ⟨_, _, _, _, hbody⟩ := h
  exact Memory.readRange_length hbody

end LastOctet

/-- Settles O16: both are the delivery of the frame. -/
theorem stepRunsTheReceivedFrame : Obligations.StepRunsTheReceivedFrame := by
  intro s b body f h hd
  obtain ⟨hstep, _⟩ := h.completes hd
  exact hstep

/-- Settles O23: under the invariant the whole body is there, and it is a frame or an error. -/
theorem lastOctetRule : Obligations.LastOctetRule := by
  intro s b hi hb hst hcnt
  obtain ⟨_, h253, _⟩ := hi.body hst
  obtain ⟨body, c, hbody, hd⟩ := hi.lastOctet_classified b hst hcnt
  have h : RxLastAtHand b body s := ⟨hb, hst, hcnt, h253, hbody⟩
  refine ⟨body, c, hbody, hd, ?_⟩
  cases c with
  | ok f =>
    obtain ⟨hstep, hexec, _, hout⟩ := h.completes hd
    have hheld := h.received_heldFrame hd
    exact ⟨hstep.trans hexec, hheld, hout, fun k a ha => getElem?_asdu_of_held hheld ha⟩
  | err e info => exact h.step_malformed hd

/-! ## Each frame kind at its last octet (R110 to R117) -/

section Kinds

variable {cf1 cf2 cf3 cf4 : Octet} {asdu : List Octet}

/-- The body at the last octet is in the domain of `classify`. -/
theorem RxLastAtHand.decodeBody_eq (h : RxLastAtHand b (cf1 :: cf2 :: cf3 :: cf4 :: asdu) s) :
    decodeBody (cf1 :: cf2 :: cf3 :: cf4 :: asdu) = some (classify cf1 cf2 cf3 cf4 asdu) := by
  have hlen := h.length_eq
  obtain ⟨_, _, _, h253, _⟩ := h
  simp only [List.length_cons] at hlen
  exact decodeBody_eq_classify (by omega)

/-- `rx_len` counts the control field and the ASDU (R71). -/
theorem RxLastAtHand.rxLen_eq (h : RxLastAtHand b (cf1 :: cf2 :: cf3 :: cf4 :: asdu) s) :
    s.rxLen = BitVec.ofNat 8 (4 + asdu.length) := by
  have hlen := h.length_eq
  simp only [List.length_cons] at hlen
  rw [show 4 + asdu.length = s.rxLen.toNat by omega, BitVec.ofNat_toNat, BitVec.setWidth_eq]

theorem RxLastAtHand.rxLen_eq_four_iff (h : RxLastAtHand b (cf1 :: cf2 :: cf3 :: cf4 :: asdu) s) :
    s.rxLen = 4#8 ↔ asdu = [] := by
  have hlen := h.length_eq
  simp only [List.length_cons] at hlen
  rw [BitVec.toNat_eq, ← hlen, ← List.length_eq_zero_iff]
  simp

/-- Where the control field is that of `f`, a frame of four octets completes as `f`, a longer one is an `UnexpectedPayload`
(R84). -/
theorem RxLastAtHand.completes_or_payload {f : Instr} (h : RxLastAtHand b (cf1 :: cf2 :: cf3 :: cf4 :: asdu) s)
    (hc : classify cf1 cf2 cf3 cf4 asdu =
      if asdu = [] then .ok f else .err .unexpectedPayload (BitVec.ofNat 8 (4 + asdu.length))) :
    if s.rxLen ≠ 4#8 then step s = .next (malformed .unexpectedPayload s.rxLen b s)
    else
      step s = exec f s ∧ exec f s = .next (received f b s) ∧ (received f b s).frmValid = true ∧
        ∀ k, (received f b s).frameOut k =
          { kind := kindCode f, ufunc := ufuncCode f, ns := nsField f, nr := nrField f, asduLen := 0#8 } := by
  have hd := h.decodeBody_eq
  by_cases hlen : s.rxLen = 4#8
  · rw [hc, if_pos (h.rxLen_eq_four_iff.1 hlen)] at hd
    rw [if_neg (not_not.2 hlen)]
    simpa only [hlen, BitVec.sub_self] using h.completes hd
  · rw [hc, if_neg (mt h.rxLen_eq_four_iff.2 hlen), ← h.rxLen_eq] at hd
    rw [if_pos hlen]
    exact h.step_malformed hd

end Kinds

/-- Settles O31: the I row matches, or a bit of `CF3` is wrong. -/
theorem receiveNumberedFrame : Obligations.ReceiveNumberedFrame := by
  intro s b cf1 cf2 cf3 cf4 asdu h h0
  have hd := h.decodeBody_eq
  rw [classify_of_i cf2 cf3 cf4 asdu h0, classifyI] at hd
  refine ⟨fun h3 => ?_, fun h3 => ?_⟩
  · rw [if_pos h3] at hd
    exact h.step_malformed hd
  · rw [h3, if_neg Bool.false_ne_true] at hd
    exact ⟨_, _, seqOf_toNat cf1 cf2, seqOf_toNat cf3 cf4, h.completes hd⟩

/-- Settles O32: the S row matches, or an octet or a bit is wrong. -/
theorem receiveAcknowledgeFrame : Obligations.ReceiveAcknowledgeFrame := by
  intro s b cf1 cf2 cf3 cf4 asdu h h0 h1
  by_cases hbad : cf1 ≠ 0x01#8 ∨ cf2 ≠ 0x00#8 ∨ cf3.getLsbD 0 = true
  · rw [if_pos hbad]
    have hd := h.decodeBody_eq
    rw [classify_of_s cf2 cf3 cf4 asdu h0 h1, classifyS, if_pos hbad] at hd
    exact h.step_malformed hd
  · rw [if_neg hbad]
    simp only [not_or, not_not, Bool.not_eq_true] at hbad
    have hs := h.completes_or_payload (classify_of_sRow asdu (sRow_matches_iff.2 hbad))
    split_ifs at hs ⊢
    · exact hs
    · exact ⟨_, seqOf_toNat cf3 cf4, hs⟩

/-- Settles O33: a row of the six matches, or the word is invalid. -/
theorem receiveControlFrame : Obligations.ReceiveControlFrame := by
  refine ⟨fun p hp s b asdu h => ?_, fun s b cf1 cf2 cf3 cf4 asdu h h0 h1 hbad => ?_⟩
  · have hrows : ∀ p ∈ [(Instr.startdtAct, 0x07#8, 0#3), (Instr.startdtCon, 0x0B#8, 1#3), (Instr.stopdtAct, 0x13#8, 2#3),
        (Instr.stopdtCon, 0x23#8, 3#3), (Instr.testfrAct, 0x43#8, 4#3), (Instr.testfrCon, 0x83#8, 5#3)],
        uFrameOf p.2.1 = some p.1 ∧ kindCode p.1 = 3#2 ∧ ufuncCode p.1 = p.2.2 ∧ nsField p.1 = 0#15 ∧
          nrField p.1 = 0#15 := by decide
    obtain ⟨hf, hkind, hufunc, hns, hnr⟩ := hrows p hp
    have hu := h.completes_or_payload (classify_of_uRow asdu hf (uRow_matches_iff.2 ⟨rfl, rfl, rfl, rfl⟩))
    simpa only [hkind, hufunc, hns, hnr] using hu
  · have hd := h.decodeBody_eq
    rw [classify_of_u cf2 cf3 cf4 asdu h0 h1, classifyU_invalid asdu hbad] at hd
    exact h.step_malformed hd

/-! ## What a step does to the decoder (R100, R106 to R108) -/

theorem rxState_of_held {f : Instr} (h : s.heldFrame = some f) : s.rxState = .hold := by
  obtain ⟨hst, _⟩ := (heldFrame_eq_some_iff s f).1 h
  exact hst

theorem sameRx_retire (s : State) : SameRx s s.retire :=
  ⟨rfl, rfl, rfl, rfl, rfl, rfl, rfl, rfl⟩

/-- In `RX_HOLD` and `RX_ERR` a step takes the held frame, discards an octet, or leaves the decoder alone, until `Reset`. -/
theorem step_of_hold_or_err (hst : s.rxState = .hold ∨ s.rxState = .err) (h : step s = .next t)
    (hreset : s.schedule.head? ≠ some .reset) :
    SameRx s t ∨ (s.rxState = .hold ∧ s.schedule.head? = some .frameTake) ∨
      (s.rxState = .err ∧ t = s.consume.retire) := by
  cases step_transition h with
  | reset hs => simp [hs] at hreset
  | rxStart _ _ _ hst' | rxLen _ _ _ hst' | rxMore _ _ _ hst' | rxFrame _ _ _ hst' | rxMalformed _ _ _ hst' =>
    simp [hst'] at hst
  | rxDiscard _ _ _ hst' => exact .inr (.inr ⟨hst', rfl⟩)
  | take hs _ hst' => exact .inr (.inl ⟨hst', by simp [hs]⟩)
  | _ => exact .inl ⟨rfl, rfl, rfl, rfl, rfl, rfl, rfl, rfl⟩

theorem SameRx.of_hold (hst : s.rxState = .hold) (h : step s = .next t) (htake : s.schedule.head? ≠ some .frameTake)
    (hreset : s.schedule.head? ≠ some .reset) : SameRx s t := by
  rcases step_of_hold_or_err (.inl hst) h hreset with hsame | ⟨_, hs⟩ | ⟨hst', _⟩
  · exact hsame
  · exact absurd hs htake
  · simp [hst] at hst'

/-- Settles O24: only a `FrameTake` or a `Reset` does anything to a decoder that holds a frame. -/
theorem heldFrameBlocksTheStream : Obligations.HeldFrameBlocksTheStream := by
  refine fun s hst => ⟨by simp [State.rxReady, hst], fun t h => ⟨SameRx.of_hold hst h, fun hleft => ?_⟩⟩
  by_contra hev
  obtain ⟨htake, hreset⟩ := not_or.1 hev
  obtain ⟨hsame, _⟩ := SameRx.of_hold hst h htake hreset
  exact hleft (hsame.trans hst)

/-- Settles O25: under the invariant the held octets are a frame, which is taken. -/
theorem frameTakeRule : Obligations.FrameTakeRule := by
  intro s hi hr hs hst
  obtain ⟨evs, hs⟩ := List.head?_eq_some_iff.1 hs
  obtain ⟨_, _, _, f, hheld⟩ := hi.hold hst
  obtain ⟨_, body, hbody, hd⟩ := (heldFrame_eq_some_iff s f).1 hheld
  exact ⟨f, body, hbody, hd, step_of_transition (.take hs hr hst hheld)⟩

/-- In `RX_ERR` only `Reset` changes a register of the decoder or puts anything out (R108, R169). -/
theorem step_of_err (hst : s.rxState = .err) (h : step s = .next t) (hreset : s.schedule.head? ≠ some .reset) :
    t.rxState = .err ∧ t.rxOut = s.rxOut ∧ t.rxErr = s.rxErr ∧ t.rxErrInfo = s.rxErrInfo := by
  rcases step_of_hold_or_err (.inr hst) h hreset with ⟨hst', _, _, _, herr, hinfo, _, hout⟩ | ⟨hst', _⟩ | ⟨_, rfl⟩
  · exact ⟨hst'.trans hst, hout, herr, hinfo⟩
  · simp [hst] at hst'
  · exact ⟨hst, rfl, rfl, rfl⟩

/-- Settles O26: an octet is dropped, and no event but `Reset` leads out (`step_of_err`). -/
theorem failedDecoderDiscards : Obligations.FailedDecoderDiscards := by
  refine fun s hst => ⟨fun b h => ?_, fun t hreset h => step_of_err hst h hreset⟩
  obtain ⟨hr, ⟨evs, hs⟩, bs, hin⟩ := h.lists
  exact step_of_transition (.rxDiscard hs hr hin hst)

/-- A run without a `Reset` from `RX_ERR` stays there and puts nothing out (R108, R120). -/
theorem runSteps_of_err (n : Nat) : ∀ {s u : State}, s.rxState = .err → .reset ∉ s.schedule → runSteps n s = .next u →
    u.rxState = .err ∧ u.rxOut = s.rxOut ∧ u.rxErr = s.rxErr ∧ u.rxErrInfo = s.rxErrInfo := by
  induction n with
  | zero =>
    intro s u hst _ h
    cases h
    exact ⟨hst, rfl, rfl, rfl⟩
  | succ n ih =>
    intro s u hst hreset h
    obtain ⟨m, hm, h⟩ := runSteps_succ_next h
    obtain ⟨hst', hout, herr, hinfo⟩ := step_of_err hst hm fun hs => hreset (List.mem_of_mem_head? hs)
    have hreset' : .reset ∉ m.schedule := by
      rw [step_schedule hm]
      exact fun hs => hreset (List.mem_of_mem_tail hs)
    simpa only [hout, herr, hinfo] using ih hst' hreset' h

/-- Settles O27: the octet enters the error (R101), which every run without a `Reset` keeps. -/
theorem noResynchronisation : Obligations.NoResynchronisation := by
  intro s t u b n h hst hb ht hreset hu
  rw [startOctetRule s b h hst, if_neg hb] at ht
  cases ht
  obtain ⟨hst', hout, herr, hinfo⟩ := runSteps_of_err n rfl hreset hu
  exact ⟨hst', herr, hinfo, hout⟩

/-- Settles O28: before the last octet by R103, at it by R104. -/
theorem bodyOctetsAreData : Obligations.BodyOctetsAreData := by
  intro s b hi hb hst
  obtain ⟨_, h253, hlt⟩ := hi.body hst
  have hcnt : (s.rxCnt + 1#8).toNat = s.rxCnt.toNat + 1 := toNat_add_one (by omega)
  have hread : (s.rxBuf.write s.rxCnt.toNat b).read s.rxCnt.toNat = some b := Memory.read_write_same _ _ _
  by_cases hc : s.rxCnt.toNat + 1 < s.rxLen.toNat
  · exact ⟨_, bodyOctetRule s b hb hst h253 hc, hread, hcnt, by simp [hst], by simp [hst]⟩
  · obtain ⟨_, c, _, _, hstep⟩ := lastOctetRule s b hi hb hst (by omega)
    cases c with
    | ok f =>
      obtain ⟨hstep, _⟩ := hstep
      exact ⟨_, hstep, hread, hcnt, by simp [received], by simp [received]⟩
    | err e info => exact ⟨_, hstep, hread, hcnt, by simp [malformed], by simp [malformed]⟩

/-! ## Enabling and the transitions of `rx_state` (R100, R122) -/

@[simp] theorem startOctet_inbound (b : Octet) (s : State) : (startOctet b s).inbound = s.inbound := by
  rcases startOctet_cases b s with he | he <;> simp [he]

@[simp] theorem lengthOctet_inbound (b : Octet) (s : State) : (lengthOctet b s).inbound = s.inbound := by
  rcases lengthOctet_cases b s with he | he | ⟨_, _, he⟩ <;> simp [he]

/-- A step takes at most one octet. -/
theorem step_inbound (h : step s = .next t) : t.inbound = s.inbound ∨ t.inbound = s.inbound.tail := by
  cases step_transition h with
  | rxStart | rxLen => exact .inr (by simp)
  | rxMore | rxFrame | rxMalformed | rxDiscard => exact .inr rfl
  | _ => exact .inl rfl

/-- Outside `RX_HOLD` `RxByte` takes the octet offered. -/
theorem rxByte_inbound (h : RxAtHand b s) (hst : s.rxState ≠ .hold) (ht : step s = .next t) :
    t.inbound = s.inbound.tail := by
  obtain ⟨_, ⟨_, hs⟩, _, hin⟩ := h.lists
  cases step_transition ht with
  | rxWaits _ _ hw => simp [hin, hst] at hw
  | rxStart | rxLen => simp
  | rxMore | rxFrame | rxMalformed | rxDiscard => rfl
  | idle hs' | reset hs' | takeWaits hs' | take hs' | txWaits hs' | txLoad hs' | txReject hs' | txDiscard hs'
  | byteWaits hs' | byteLast hs' | byteMore hs' => simp [hs] at hs'

/-- A step puts out at most one output. -/
theorem step_rxOut (h : step s = .next t) : ∃ out, t.rxOut = s.rxOut ++ out ∧ out.length ≤ 1 := by
  cases step_transition h with
  | @rxStart _ b =>
    rcases startOctet_cases b s with he | he
    · exact ⟨[], by simp [he]⟩
    · exact ⟨[_], by rw [he]; rfl, le_rfl⟩
  | @rxLen _ b =>
    rcases lengthOctet_cases b s with he | he | ⟨_, _, he⟩
    · exact ⟨[_], by rw [he]; rfl, le_rfl⟩
    · exact ⟨[_], by rw [he]; rfl, le_rfl⟩
    · exact ⟨[], by simp [he]⟩
  | rxFrame | rxMalformed | take => exact ⟨[_], rfl, le_rfl⟩
  | _ => exact ⟨[], by simp⟩

/-- Settles O19: an enabled event goes on under the invariant, and one that is not enabled waits. -/
theorem decoderEventsEnabled : Obligations.DecoderEventsEnabled := by
  intro s b hi hr hin
  refine ⟨fun hs hst => ?_, fun hs hst t h => SameRx.of_hold hst h (by simp [hs]) (by simp [hs]), fun hs hst => ?_,
    fun hs hst t h => ?_⟩
  · obtain ⟨t, ht⟩ := inv_goes_on hi hr
    obtain ⟨out, hout, hone⟩ := step_rxOut ht
    exact ⟨t, out, ht, rxByte_inbound ⟨hr, hs, hin⟩ hst ht, hout, hone⟩
  · obtain ⟨f, _, _, _, ht⟩ := frameTakeRule s hi.1 hr hs hst
    exact ⟨_, f, ht, rfl, rfl⟩
  · obtain ⟨evs, hs⟩ := List.head?_eq_some_iff.1 hs
    rw [step_of_transition (.takeWaits hs hr hst)] at h
    cases h
    exact sameRx_retire s

/-- The rows of R122 for `RxByte`, each from the rule of its state. -/
theorem rxByte_transitions (hi : RxInv s) (h : RxAtHand b s) (ht : step s = .next t) :
    (s.rxState = .start → t.rxState = if b = 0x68#8 then .len else .err) ∧
    (s.rxState = .len → t.rxState = if 4 ≤ b.toNat ∧ b.toNat ≤ 253 then .body else .err) ∧
    (s.rxState = .body → s.rxCnt.toNat + 1 < s.rxLen.toNat → t.rxState = .body) ∧
    (s.rxState = .body → s.rxCnt.toNat + 1 = s.rxLen.toNat →
      ∀ body c, (s.rxBuf.write s.rxCnt.toNat b).readRange 0 s.rxLen.toNat = some body → decodeBody body = some c →
        t.rxState = match c with
          | .ok _ => .hold
          | .err _ _ => .err) ∧
    (s.rxState = .err → t.rxState = .err) := by
  refine ⟨fun hst => ?_, fun hst => ?_, fun hst hc => ?_, fun hst hc body c hbody hd => ?_, fun hst => ?_⟩
  · cases ht.symm.trans (startOctetRule s b h hst)
    split <;> rfl
  · cases ht.symm.trans (lengthOctetRule s b h hst)
    by_cases hmax : 253 < b.toNat
    · rw [if_pos hmax, if_neg (by omega)]
    rw [if_neg hmax]
    by_cases hmin : b.toNat < 4
    · rw [if_pos hmin, if_neg (by omega)]
    · rw [if_neg hmin, if_pos (by omega)]
  · obtain ⟨_, h253, _⟩ := hi.body hst
    cases ht.symm.trans (bodyOctetRule s b h hst h253 hc)
    exact hst
  · obtain ⟨_, h253, _⟩ := hi.body hst
    have hlast : RxLastAtHand b body s := ⟨h, hst, hc, h253, hbody⟩
    cases c with
    | ok f =>
      obtain ⟨hstep, hexec, _⟩ := hlast.completes hd
      cases ht.symm.trans (hstep.trans hexec)
      rfl
    | err e info =>
      cases ht.symm.trans (hlast.step_malformed hd)
      rfl
  · obtain ⟨_, hs, _⟩ := h
    obtain ⟨hst', _⟩ := step_of_err hst ht (by simp [hs])
    exact hst'

/-- A step that changes `rx_state` is a row of R122. -/
theorem rxState_change (h : step s = .next t) (hne : t.rxState ≠ s.rxState) :
    s.schedule.head? = some .reset ∨ (s.schedule.head? = some .frameTake ∧ s.rxState = .hold ∧ t.rxState = .start) ∨
    (s.schedule.head? = some .rxByte ∧
      (s.rxState, t.rxState) ∈ [(RxState.start, RxState.len), (.start, .err), (.len, .body), (.len, .err), (.body, .hold),
        (.body, .err)]) := by
  cases step_transition h with
  | reset hs => exact .inl (by simp [hs])
  | take hs _ hst => exact .inr (.inl ⟨by simp [hs], hst, rfl⟩)
  | @rxStart _ b _ hs _ _ hst =>
    refine .inr (.inr ⟨by simp [hs], ?_⟩)
    rcases startOctet_cases b s with he | he <;> simp [he, hst]
  | @rxLen _ b _ hs _ _ hst =>
    refine .inr (.inr ⟨by simp [hs], ?_⟩)
    rcases lengthOctet_cases b s with he | he | ⟨_, _, he⟩ <;> simp [he, hst]
  | rxFrame hs _ _ hst | rxMalformed hs _ _ hst => exact .inr (.inr ⟨by simp [hs], by simp [hst]⟩)
  | _ => exact absurd rfl hne

/-- Settles O29: the rows of `RxByte`, those of `FrameTake` and `Reset`, and `rxState_change`. -/
theorem decoderTransitionTable : Obligations.DecoderTransitionTable := by
  refine ⟨fun s b hi h => ?_, fun s hi hr hs hst => ?_, fun s hs => ?_, fun s t => rxState_change⟩
  · obtain ⟨hr, ⟨evs, hs⟩, _⟩ := h.lists
    obtain ⟨t, ht⟩ := hi.rxByte_goes_on hr hs
    have hstep := step_of_transition ht
    exact ⟨t, hstep, rxByte_transitions hi h hstep⟩
  · obtain ⟨f, _, _, _, ht⟩ := frameTakeRule s hi hr hs hst
    exact ⟨_, ht, rfl⟩
  · obtain ⟨evs, hs⟩ := List.head?_eq_some_iff.1 hs
    exact ⟨_, step_reset hs, rfl⟩

/-! ## What the decoder has made of the octets so far -/

/-- From a frame boundary in `s` the octets `p` have been read as `d`, and `r` is still to come: the decoder waits in the
partial state of `p`, or holds the frame `p` begins with and has read no further, or is in the error. -/
def ReadAs (s : State) (p r : List Octet) (t : State) : Decoded → Prop
  | .needMore => PartialRx p t ∧ t.inbound = r ∧ t.rxErr = s.rxErr ∧ t.rxOut = s.rxOut
  | .frame f rest => t.heldFrame = some f ∧ t.inbound = rest ++ r ∧ t.rxOut = s.rxOut ++ [.frame f]
  | .error e info =>
    t.rxState = .err ∧ t.inbound = r ∧ t.rxErr = e ∧ t.rxErrInfo = info ∧ t.rxOut = s.rxOut ++ [.error e info]

/-- At a frame boundary nothing has been read yet. -/
theorem readAs_nil (hst : t.rxState = .start) (hin : t.inbound = r) : ReadAs t [] r t (decodeApdu []) :=
  ⟨hst, hin, rfl, rfl⟩

/-- The start octet is read, or is an error (R101). -/
theorem readAs_startOctet (hs : t.schedule = .rxByte :: evs) (hr : t.resetDone = true)
    (h : ReadAs s [] (b :: r) t .needMore) :
    ∃ u, step t = .next u ∧ ReadAs s [b] r u (decodeApdu [b]) := by
  obtain ⟨hst, hin, herr, hout⟩ := h
  refine ⟨_, step_of_transition (.rxStart hs hr hin hst), ?_⟩
  by_cases hb : b = Config.start
  · subst hb
    exact ⟨rfl, by simp [startOctet, hin], herr, hout⟩
  · rw [decodeApdu_of_begins (.badStart hb), startOctet, if_neg hb]
    exact ⟨rfl, by simp [hin], rfl, rfl, by simp [hout]⟩

/-- The length octet begins a body, or is an error (R102). -/
theorem readAs_lengthOctet (hs : t.schedule = .rxByte :: evs) (hr : t.resetDone = true)
    (h : ReadAs s [Config.start] (b :: r) t .needMore) :
    ∃ u, step t = .next u ∧ ReadAs s [Config.start, b] r u (decodeApdu [Config.start, b]) := by
  obtain ⟨hst, hin, herr, hout⟩ := h
  refine ⟨_, step_of_transition (.rxLen hs hr hin hst), ?_⟩
  by_cases hmax : 253 < b.toNat
  · rw [decodeApdu_of_begins (.tooLarge hmax), lengthOctet, if_pos (by simpa [Config.maxLen] using hmax)]
    exact ⟨rfl, by simp [hin], rfl, rfl, by simp [hout]⟩
  rw [lengthOctet, if_neg (by simpa [Config.maxLen] using hmax)]
  by_cases hmin : b.toNat < 4
  · rw [decodeApdu_of_begins (.tooShort hmin), if_pos (by simpa [Config.minLen] using hmin)]
    exact ⟨rfl, by simp [hin], rfl, rfl, by simp [hout]⟩
  · rw [decodeApdu_of_begins (.partialBody (by omega) (by omega) (by simp; omega)),
      if_neg (by simpa [Config.minLen] using hmin)]
    exact ⟨⟨rfl, rfl, rfl, rfl⟩, by simp [hin], herr, hout⟩

/-- A body octet is stored; the last one completes a frame or is an error (R103, R104). -/
theorem readAs_bodyOctet {l : Octet} (hs : t.schedule = .rxByte :: evs) (hr : t.resetDone = true) (h4 : 4 ≤ l.toNat)
    (h253 : l.toNat ≤ 253) (hlt : p.length < l.toNat) (h : ReadAs s (Config.start :: l :: p) (b :: r) t .needMore) :
    ∃ u, step t = .next u ∧
      ReadAs s (Config.start :: l :: (p ++ [b])) r u (decodeApdu (Config.start :: l :: (p ++ [b]))) := by
  obtain ⟨⟨hst, rfl, hcnt, hbuf⟩, hin, herr, hout⟩ := h
  have hbuf' : (t.storeRx b).rxBuf.readRange 0 (p.length + 1) = some (p ++ [b]) := by
    rw [State.storeRx_rxBuf, hcnt]
    simpa using Memory.readRange_write_end b hbuf
  by_cases hc : p.length + 1 < t.rxLen.toNat
  · refine ⟨_, step_of_transition (.rxMore hs hr hin hst (by omega) (by omega)), ?_⟩
    have hcnt' : (t.rxCnt + 1#8).toNat = p.length + 1 := by rw [toNat_add_one (by omega), hcnt]
    rw [decodeApdu_of_begins (.partialBody h4 h253 (by simpa using hc))]
    exact ⟨⟨hst, rfl, by simpa using hcnt', by simpa using hbuf'⟩, by simp [hin], herr, hout⟩
  have hl : (p ++ [b]).length = t.rxLen.toNat := by
    rw [List.length_append, List.length_singleton]
    omega
  have hbody : (t.storeRx b).rxBody = some (p ++ [b]) := by
    rw [State.rxBody, State.storeRx_rxLen, ← hl, List.length_append]
    exact hbuf'
  obtain ⟨c, hd⟩ := Option.isSome_iff_exists.1 ((decodeBody_isSome_iff (p ++ [b])).2 (by omega))
  cases c with
  | ok f =>
    refine ⟨_, step_of_transition (.rxFrame hs hr hin hst (by omega) (by omega) hbody hd), ?_⟩
    have hbegins := Begins.frame (rest := []) hl hd
    rw [List.append_nil] at hbegins
    rw [decodeApdu_of_begins hbegins]
    exact ⟨(heldFrame_eq_some_iff _ f).2 ⟨rfl, _, hbody, hd⟩, by simp [hin], by simp [hout]⟩
  | err e info =>
    refine ⟨_, step_of_transition (.rxMalformed hs hr hin hst (by omega) (by omega) hbody hd), ?_⟩
    have hbegins := Begins.malformed (rest := []) hl hd
    rw [List.append_nil] at hbegins
    rw [decodeApdu_of_begins hbegins]
    exact ⟨rfl, by simp [hin], rfl, rfl, by simp [hout]⟩

/-- One more `RxByte` reads one more octet: a partial state goes on as the octet says, a held frame and an error stay. -/
theorem readAs_rxByte (hs : t.schedule = .rxByte :: evs) (hr : t.resetDone = true)
    (h : ReadAs s p (b :: r) t (decodeApdu p)) :
    ∃ u, step t = .next u ∧ ReadAs s (p ++ [b]) r u (decodeApdu (p ++ [b])) := by
  have happ := decodeApdu_append p [b]
  cases hd : decodeApdu p with
  | needMore =>
    rw [hd] at h
    cases decodeApdu_eq_iff.1 hd with
    | nothing => exact readAs_startOctet hs hr h
    | startOnly => exact readAs_lengthOctet hs hr h
    | partialBody h4 h253 hl => exact readAs_bodyOctet hs hr h4 h253 hl h
  | frame f rest =>
    simp only [hd] at h happ
    obtain ⟨hheld, hin, hout⟩ := h
    rw [happ]
    exact ⟨_, step_of_transition (.rxWaits hs hr (.inr (rxState_of_held hheld))), hheld,
      by simpa using hin, hout⟩
  | error e info =>
    simp only [hd] at h happ
    obtain ⟨hst, hin, herr, hinfo, hout⟩ := h
    rw [happ]
    exact ⟨_, step_of_transition (.rxDiscard hs hr hin hst), hst, by simp [hin], herr, hinfo, hout⟩

/-! ## Runs -/

theorem runSteps_succ_of_next {n : Nat} (h : step s = .next t) : runSteps (n + 1) s = runSteps n t := by
  simp only [runSteps, h]

theorem runSteps_add_of_next {m : Nat} (n : Nat) (h : runSteps m s = .next t) : runSteps (m + n) s = runSteps n t := by
  simp only [runSteps_add, h]

/-- A run of `RxByte` events, one for each octet of `q`, reads `q`. -/
theorem runSteps_rxBytes (q : List Octet) : ∀ {p : List Octet} {t : State},
    t.schedule = (q.map fun _ => .rxByte) ++ evs → t.resetDone = true → ReadAs s p (q ++ r) t (decodeApdu p) →
    ∃ u, runSteps q.length t = .next u ∧ ReadAs s (p ++ q) r u (decodeApdu (p ++ q)) := by
  induction q with
  | nil => exact fun _ _ h => ⟨_, rfl, by simpa using h⟩
  | cons b q ih =>
    intro p t hs hr h
    obtain ⟨u, hu, h⟩ := readAs_rxByte hs hr h
    obtain ⟨v, hv, h⟩ := ih (by rw [step_schedule hu, hs]; rfl) (step_resetDone hu hr) h
    exact ⟨v, (runSteps_succ_of_next hu).trans hv, by simpa using h⟩

/-- Octets offered at a frame boundary are read up to any point. -/
theorem runSteps_feedRx_reads (hs : s.schedule = []) (hin : s.inbound = []) (hr : s.resetDone = true)
    (hst : s.rxState = .start) (p q : List Octet) :
    ∃ t, runSteps p.length (s.feedRx (p ++ q)) = .next t ∧ ReadAs s p q t (decodeApdu p) := by
  have hnil : ReadAs s [] (p ++ q) (s.feedRx (p ++ q)) (decodeApdu []) := ⟨hst, by simp [State.feedRx, hin], rfl, rfl⟩
  exact runSteps_rxBytes (t := s.feedRx (p ++ q)) (evs := q.map fun _ => .rxByte) p (by simp [State.feedRx, hs]) hr hnil

/-- A proper beginning of a frame's encoding is not yet an APDU (R86, R149). -/
theorem decodeApdu_of_encode_eq {f : Instr} {p q : List Octet} (hf : f.wf = true) (he : encode f = p ++ q) (hq : q ≠ []) :
    decodeApdu p = .needMore := by
  have hfull : decodeApdu (p ++ q) = .frame f [] := decodeApdu_eq_frame_iff.2 ⟨hf, by rw [he, List.append_nil]⟩
  have happ := decodeApdu_append p q
  cases hd : decodeApdu p with
  | needMore => rfl
  | frame g rest =>
    simp only [hd, hfull, Decoded.frame.injEq, List.nil_eq, List.append_eq_nil_iff] at happ
    obtain ⟨_, _, hnil⟩ := happ
    exact absurd hnil hq
  | error e info => simp [hd, hfull] at happ

theorem decodeApdu_encode {f : Instr} (hf : f.wf = true) : decodeApdu (encode f) = .frame f [] :=
  decodeApdu_eq_frame_iff.2 ⟨hf, (List.append_nil _).symm⟩

/-! ## A decoder accepts exactly the encodings (R148) -/

/-- A run that ends with `Frame(f)` as its one output has read an octet string that begins with `f`. -/
theorem ReadAs.eq_frame {f : Instr} {d : Decoded} (h : ReadAs s p r t d) (hout : t.rxOut = s.rxOut ++ [.frame f]) :
    ∃ rest, d = .frame f rest := by
  cases d with
  | needMore =>
    obtain ⟨_, _, _, hsame⟩ := h
    simp [hsame] at hout
  | frame g rest =>
    obtain ⟨_, _, hg⟩ := h
    simp only [hg, List.append_cancel_left_eq, List.cons.injEq, RxOutput.frame.injEq, and_true] at hout
    exact ⟨rest, by rw [hout]⟩
  | error e info =>
    obtain ⟨_, _, _, _, he⟩ := h
    simp [he] at hout

/-- Settles O56: what has been put out after any part of the string tells what that part is read as. -/
theorem decoderAcceptsExactlyTheEncodings : Obligations.DecoderAcceptsExactlyTheEncodings := by
  intro s bs f hs hin hr hst
  have reads := runSteps_feedRx_reads hs hin hr hst
  constructor
  · rintro ⟨-, hbefore, u, hu, hout⟩
    obtain ⟨u', hu', hread⟩ := reads bs []
    rw [List.append_nil, hu] at hu'
    cases hu'
    obtain ⟨rest, hd⟩ := hread.eq_frame hout
    obtain ⟨hf, rfl⟩ := decodeApdu_eq_frame_iff.1 hd
    refine ⟨hf, ?_⟩
    by_contra hne
    have hlt : (encode f).length < (encode f ++ rest).length := by
      rw [List.length_append]
      exact Nat.lt_add_of_pos_right (List.length_pos_iff.2 fun h => hne (by rw [h, List.append_nil]))
    obtain ⟨t, ht, hsame⟩ := hbefore _ hlt
    obtain ⟨t', ht', hread⟩ := reads (encode f) rest
    cases ht.symm.trans ht'
    rw [decodeApdu_encode hf] at hread
    obtain ⟨_, _, hout⟩ := hread
    simp [hsame] at hout
  · rintro ⟨hf, rfl⟩
    refine ⟨by simp [encode], fun n hn => ?_, ?_⟩
    · obtain ⟨t, ht, hread⟩ := reads ((encode f).take n) ((encode f).drop n)
      rw [List.take_append_drop, List.length_take_of_le hn.le] at ht
      rw [decodeApdu_of_encode_eq hf (List.take_append_drop n _).symm (by simpa using hn)] at hread
      obtain ⟨_, _, _, hout⟩ := hread
      exact ⟨t, ht, hout⟩
    · obtain ⟨u, hu, hread⟩ := reads (encode f) []
      rw [List.append_nil] at hu
      rw [decodeApdu_encode hf] at hread
      obtain ⟨_, _, hout⟩ := hread
      exact ⟨u, hu, hout⟩

/-! ## Grouping of octets (R118) -/

/-- `g` of the state an outcome goes on to. -/
def mapNext (g : State → State) : Host.Outcome State Fault Refusal → Host.Outcome State Fault Refusal
  | .next s => .next (g s)
  | .fault r => .fault r
  | .refused r => .refused r

section Grouping

variable {bs : List Octet} (q : List Octet)

theorem feedRx_schedule_cons {ev : EventKind} (hs : s.schedule = ev :: evs) :
    (s.feedRx q).schedule = ev :: (evs ++ q.map fun _ => .rxByte) := by
  simp [State.feedRx, hs]

theorem feedRx_inbound_cons (hin : s.inbound = b :: bs) : (s.feedRx q).inbound = b :: (bs ++ q) := by
  simp [State.feedRx, hin]

/-- Octets offered later are behind the octet and the event at hand. -/
theorem retire_feedRx {ev : EventKind} (hs : s.schedule = ev :: evs) : (s.feedRx q).retire = s.retire.feedRx q := by
  simp [State.feedRx, State.retire, hs]

theorem consume_feedRx (hin : s.inbound = b :: bs) : (s.feedRx q).consume = s.consume.feedRx q := by
  simp [State.feedRx, State.consume, hin]

theorem consume_retire_feedRx {ev : EventKind} (hs : s.schedule = ev :: evs) (hin : s.inbound = b :: bs) :
    .next (s.feedRx q).consume.retire = mapNext (State.feedRx q) (.next s.consume.retire) := by
  rw [consume_feedRx q hin, retire_feedRx q (s := s.consume) hs, mapNext]

theorem exec_feedRx (f : Instr) (hs : s.schedule = .rxByte :: evs) (hin : s.inbound = b :: bs) :
    exec f (s.feedRx q) = mapNext (State.feedRx q) (exec f s) := by
  rw [exec_rx f hs, exec_rx f (feedRx_schedule_cons q hs), receiveFrame, receiveFrame, hin, feedRx_inbound_cons q hin]
  change completeRx f b (s.feedRx q) = mapNext _ (completeRx f b s)
  have hst : (s.feedRx q).rxState = s.rxState := rfl
  rw [completeRx, completeRx, hst]
  cases s.rxState with
  | start | len => rfl
  | hold => exact congrArg _ (retire_feedRx q hs)
  | err => exact consume_retire_feedRx q hs hin
  | body =>
    change (if s.rxCnt.toNat + 1 = s.rxLen.toNat ∧ s.rxCnt.toNat < Config.rxbSize then _ else _) = mapNext _ (ite _ _ _)
    split
    · exact consume_retire_feedRx q (s := (s.storeRx b).deliver f) hs hin
    · rfl

theorem lastOctet_feedRx (hs : s.schedule = .rxByte :: evs) (hin : s.inbound = b :: bs) :
    lastOctet b (s.feedRx q) = mapNext (State.feedRx q) (lastOctet b s) := by
  have hbody : ((s.feedRx q).storeRx b).rxBody = (s.storeRx b).rxBody := rfl
  rw [lastOctet, lastOctet, hbody]
  cases (s.storeRx b).rxBody with
  | none => rfl
  | some body =>
    cases hd : decodeBody body with
    | none => simp only [hd, mapNext]
    | some c =>
      cases c with
      | ok f => simpa only [hd] using exec_feedRx q f hs hin
      | err e info => simpa only [hd] using! consume_retire_feedRx q (s := (s.storeRx b).raiseRx e info) hs hin

theorem bodyOctet_feedRx (hs : s.schedule = .rxByte :: evs) (hin : s.inbound = b :: bs) :
    bodyOctet b (s.feedRx q) = mapNext (State.feedRx q) (bodyOctet b s) := by
  have hcnt : (s.feedRx q).rxCnt = s.rxCnt := rfl
  have hlen : (s.feedRx q).rxLen = s.rxLen := rfl
  rw [bodyOctet, bodyOctet, hcnt, hlen]
  split_ifs
  · rfl
  · exact consume_retire_feedRx q (s := s.storeRx b) hs hin
  · exact lastOctet_feedRx q hs hin
  · rfl

theorem rxOctet_feedRx (hs : s.schedule = .rxByte :: evs) (hin : s.inbound = b :: bs) :
    rxOctet b (s.feedRx q) = mapNext (State.feedRx q) (rxOctet b s) := by
  cases hst : s.rxState with
  | start =>
    rw [rxOctet_start b hst, rxOctet_start b (s := s.feedRx q) hst]
    unfold startOctet
    split
    · exact consume_retire_feedRx q (s := s.toRxLen) hs hin
    · exact consume_retire_feedRx q (s := s.raiseRx .invalidStartByte b) hs hin
  | len =>
    rw [rxOctet_len b hst, rxOctet_len b (s := s.feedRx q) hst]
    unfold lengthOctet
    split_ifs
    · exact consume_retire_feedRx q (s := s.raiseRx .frameTooLarge b) hs hin
    · exact consume_retire_feedRx q (s := s.raiseRx .frameTooShort b) hs hin
    · exact consume_retire_feedRx q (s := s.beginBody b) hs hin
  | body =>
    rw [rxOctet_body b hst, rxOctet_body b (s := s.feedRx q) hst]
    exact bodyOctet_feedRx q hs hin
  | hold =>
    rw [rxOctet_hold b hst, rxOctet_hold b (s := s.feedRx q) hst, retire_feedRx q hs]
    rfl
  | err =>
    rw [rxOctet_err b hst, rxOctet_err b (s := s.feedRx q) hst]
    exact consume_retire_feedRx q hs hin

/-- While an octet is offered, `RxByte` does the same whatever is offered behind it, in a state that stops too. -/
theorem step_feedRx (hs : s.schedule = .rxByte :: evs) (hin : s.inbound = b :: bs) :
    step (s.feedRx q) = mapNext (State.feedRx q) (step s) := by
  have hr' : (s.feedRx q).resetDone = s.resetDone := rfl
  rw [step_of_schedule hs, step_of_schedule (feedRx_schedule_cons q hs), perform, perform, afterReset, afterReset, hr']
  split
  · simp only [rxByteEvent, hin, feedRx_inbound_cons q hin, rxOctet_feedRx q hs hin]
  · rfl

/-- A run of `RxByte` events does not see the octets offered behind those it is for. -/
theorem runSteps_feedRx (n : Nat) : ∀ {s : State}, s.schedule = List.replicate n .rxByte → n ≤ s.inbound.length →
    runSteps n (s.feedRx q) = mapNext (State.feedRx q) (runSteps n s) := by
  induction n with
  | zero => exact fun _ _ => rfl
  | succ n ih =>
    intro s hs hn
    obtain ⟨b, bs, hin⟩ := List.exists_cons_of_length_pos (Nat.zero_lt_of_lt hn)
    rw [List.replicate_succ] at hs
    rw [runSteps, runSteps, step_feedRx q hs hin]
    cases hstep : step s with
    | next t =>
      refine ih (by rw [step_schedule hstep, hs]; rfl) ?_
      rcases step_inbound hstep with he | he <;> simp [he] <;> omega
    | fault r | refused r => rfl

end Grouping

theorem feedRx_append (s : State) (p q : List Octet) : s.feedRx (p ++ q) = (s.feedRx p).feedRx q := by
  simp [State.feedRx]

/-- Offering `p` and `q` together is offering `p` and, when it is done with, `q`. -/
theorem runSteps_feedRx_append (hs : s.schedule = []) (p q : List Octet) :
    runSteps (p ++ q).length (s.feedRx (p ++ q)) =
      match runSteps p.length (s.feedRx p) with
      | .next t => runSteps q.length (t.feedRx q)
      | .fault r => .fault r
      | .refused r => .refused r := by
  rw [feedRx_append, List.length_append, runSteps_add,
    runSteps_feedRx q p.length (by simp [State.feedRx, hs]) (by simp [State.feedRx])]
  cases runSteps p.length (s.feedRx p) <;> rfl

theorem PartialRx.rxNeedMore (h : PartialRx p t) : t.rxNeedMore = true := by
  match p with
  | [] | [_] => simp_all [PartialRx, State.rxNeedMore]
  | _ :: _ :: _ =>
    obtain ⟨hst, _⟩ := h
    simp [State.rxNeedMore, hst]

/-- Settles O54: a proper beginning of an encoding is read as incomplete, and what follows it is read as if offered with it. -/
theorem partialFramesResume : Obligations.PartialFramesResume := by
  refine ⟨fun s p q hs _ _ => runSteps_feedRx_append hs p q, fun s f p q hs hin hr hst herr hf he hq => ?_⟩
  obtain ⟨t, ht, hread⟩ := runSteps_feedRx_reads hs hin hr hst p []
  rw [List.append_nil] at ht
  rw [decodeApdu_of_encode_eq hf he hq] at hread
  obtain ⟨hpart, _, herr', hout⟩ := hread
  obtain ⟨u, hu, hread⟩ := runSteps_feedRx_reads hs hin hr hst (p ++ q) []
  rw [List.append_nil, runSteps_feedRx_append hs, ht] at hu
  rw [← he, decodeApdu_encode hf] at hread
  obtain ⟨hheld, _, hout'⟩ := hread
  exact ⟨t, ht, hpart, hpart.rxNeedMore, herr'.trans herr, hout, u, hu, rxState_of_held hheld, hheld, hout'⟩

/-! ## A stream of frames, each taken at once (R119) -/

theorem partialRx_retire : PartialRx p t.retire ↔ PartialRx p t := by
  match p with
  | [] | [_] | _ :: _ :: _ => rfl

/-- `FrameTake` takes the frame that has been read; the decoder is at a frame boundary again (R107). -/
theorem ReadAs.take {f : Instr} {rest : List Octet} (h : ReadAs s p r t (.frame f rest)) (hr : t.resetDone = true)
    (hs : t.schedule = .frameTake :: evs) :
    ∃ u, step t = .next u ∧ u.rxState = .start ∧ u.inbound = rest ++ r ∧ u.rxOut = s.rxOut ++ [.frame f, .taken f] := by
  obtain ⟨hheld, hin, hout⟩ := h
  exact ⟨_, step_of_transition (.take hs hr (rxState_of_held hheld) hheld), rfl, hin, by simp [hout]⟩

/-- With no frame held `FrameTake` finds nothing to take (R100). -/
theorem ReadAs.takeWaits {d : Decoded} (h : ReadAs s p r t d) (hd : ∀ f rest, d ≠ .frame f rest)
    (hr : t.resetDone = true) (hs : t.schedule = .frameTake :: evs) :
    ∃ u, step t = .next u ∧ ReadAs s p r u d := by
  cases d with
  | needMore =>
    obtain ⟨hpart, hrest⟩ := h
    have hst : t.rxState ≠ .hold := by
      intro hst
      have hmore := hpart.rxNeedMore
      simp [State.rxNeedMore, hst] at hmore
    exact ⟨_, step_of_transition (.takeWaits hs hr hst), partialRx_retire.2 hpart, hrest⟩
  | frame f rest => exact absurd rfl (hd f rest)
  | error e info =>
    obtain ⟨hst, hrest⟩ := h
    exact ⟨_, step_of_transition (.takeWaits hs hr (by simp [hst])), hst, hrest⟩

/-- `RxByte` and `FrameTake` for one more octet that completes no frame: it is read. -/
theorem runSteps_octet (hs : t.schedule = .rxByte :: .frameTake :: evs) (hr : t.resetDone = true)
    (h : ReadAs s p (b :: r) t (decodeApdu p)) (hd : ∀ f rest, decodeApdu (p ++ [b]) ≠ .frame f rest) :
    ∃ u, runSteps 2 t = .next u ∧ u.schedule = evs ∧ u.resetDone = true ∧
      ReadAs s (p ++ [b]) r u (decodeApdu (p ++ [b])) := by
  obtain ⟨m, hm, h⟩ := readAs_rxByte hs hr h
  have hms : m.schedule = .frameTake :: evs := by rw [step_schedule hm, hs]; rfl
  obtain ⟨u, hu, h⟩ := h.takeWaits hd (step_resetDone hm hr) hms
  exact ⟨u, by rw [runSteps_succ_of_next hm, runSteps_succ_of_next hu, runSteps], by rw [step_schedule hu, hms]; rfl,
    step_resetDone hu (step_resetDone hm hr), h⟩

/-- Octets among which no frame is complete are read, with nothing to take. -/
theorem runSteps_play_incomplete (q : List Octet) : ∀ {p : List Octet} {t : State},
    t.schedule = (q.flatMap fun _ => [.rxByte, .frameTake]) ++ evs → t.resetDone = true →
    ReadAs s p (q ++ r) t (decodeApdu p) → (∀ f rest, decodeApdu (p ++ q) ≠ .frame f rest) →
    ∃ u, runSteps (2 * q.length) t = .next u ∧ u.schedule = evs ∧ u.resetDone = true ∧
      ReadAs s (p ++ q) r u (decodeApdu (p ++ q)) := by
  induction q with
  | nil => exact fun hs hr h _ => ⟨_, rfl, by simpa using hs, hr, by simpa using h⟩
  | cons b q ih =>
    intro p t hs hr h hd
    have hd' : ∀ f rest, decodeApdu (p ++ [b]) ≠ .frame f rest := by
      intro f rest hf
      have happ := decodeApdu_append (p ++ [b]) q
      simp only [hf, List.append_assoc, List.singleton_append] at happ
      exact hd f (rest ++ q) happ
    obtain ⟨m, hm, hms, hmr, h⟩ := runSteps_octet hs hr h hd'
    obtain ⟨u, hu, hus, hur, h⟩ := ih hms hmr h (by simpa using hd)
    refine ⟨u, ?_, hus, hur, by simpa using h⟩
    rw [List.length_cons, Nat.mul_add, Nat.add_comm, runSteps_add_of_next _ hm, hu]

/-- `t` is at a frame boundary after a `Reset`, offered the octets `r` with the events `evs` to come, and has put out `out`. -/
def AtBoundary (r : List Octet) (evs : List EventKind) (out : List RxOutput) (t : State) : Prop :=
  t.rxState = .start ∧ t.resetDone = true ∧ t.inbound = r ∧ t.schedule = evs ∧ t.rxOut = out

/-- One frame of a stream is put out at its last octet and taken. -/
theorem runSteps_play_frame {f : Instr} {out : List RxOutput} (hf : f.wf = true)
    (h : AtBoundary (encode f ++ r) (((encode f).flatMap fun _ => [.rxByte, .frameTake]) ++ evs) out t) :
    ∃ u, runSteps (2 * (encode f).length) t = .next u ∧ AtBoundary r evs (out ++ [.frame f, .taken f]) u := by
  obtain ⟨hst, hr, hin, hs, rfl⟩ := h
  obtain ⟨q, b, he⟩ : ∃ q b, encode f = q ++ [b] := (List.eq_nil_or_concat' _).resolve_left (by simp [encode])
  have hd : decodeApdu q = .needMore := decodeApdu_of_encode_eq hf he (by simp)
  rw [he] at hin hs
  obtain ⟨m, hm, hms, hmr, h⟩ := runSteps_play_incomplete (s := t) (r := b :: r) (evs := .rxByte :: .frameTake :: evs) q
    (by simpa using hs) hr (readAs_nil hst (by simpa using hin)) (by simp [hd])
  obtain ⟨n, hn, h⟩ := readAs_rxByte hms hmr h
  rw [List.nil_append, ← he, decodeApdu_encode hf] at h
  have hns : n.schedule = .frameTake :: evs := by rw [step_schedule hn, hms]; rfl
  obtain ⟨u, hu, hust, huin, huout⟩ := h.take (step_resetDone hn hmr) hns
  refine ⟨u, ?_, hust, step_resetDone hu (step_resetDone hn hmr), huin, by rw [step_schedule hu, hns]; rfl, huout⟩
  rw [he, List.length_append, Nat.mul_add, runSteps_add_of_next _ hm]
  change runSteps 2 m = _
  rw [runSteps_succ_of_next hn, runSteps_succ_of_next hu, runSteps]

/-- Every frame of a stream is put out and taken, in order. -/
theorem runSteps_play_frames (fs : List Instr) (hfs : ∀ f ∈ fs, f.wf = true) : ∀ {out : List RxOutput} {t : State},
    AtBoundary (fs.flatMap encode ++ r) (((fs.flatMap encode).flatMap fun _ => [.rxByte, .frameTake]) ++ evs) out t →
    ∃ u, runSteps (2 * (fs.flatMap encode).length) t = .next u ∧
      AtBoundary r evs (out ++ fs.flatMap fun f => [RxOutput.frame f, .taken f]) u := by
  induction fs with
  | nil => exact fun h => ⟨_, rfl, by simpa using h⟩
  | cons f fs ih =>
    intro out t h
    obtain ⟨hf, hfs⟩ := List.forall_mem_cons.1 hfs
    simp only [List.flatMap_cons, List.flatMap_append, List.append_assoc] at h
    obtain ⟨m, hm, h⟩ := runSteps_play_frame hf h
    obtain ⟨u, hu, h⟩ := ih hfs h
    refine ⟨u, ?_, by simpa using h⟩
    rw [List.flatMap_cons, List.length_append, Nat.mul_add, runSteps_add_of_next _ hm, hu]

/-- A stream of frames and then octets `p` that begin with no frame: the frames are taken, and `p` is read. -/
theorem runSteps_playRx_reads (hs : s.schedule = []) (hin : s.inbound = []) (hr : s.resetDone = true)
    (hst : s.rxState = .start) {fs : List Instr} (hfs : ∀ f ∈ fs, f.wf = true)
    (hp : ∀ f rest, decodeApdu p ≠ .frame f rest) :
    ∃ m t, runSteps (2 * (fs.flatMap encode ++ p).length) (s.playRx (fs.flatMap encode ++ p)) = .next t ∧
      m.rxOut = s.rxOut ++ (fs.flatMap fun f => [RxOutput.frame f, .taken f]) ∧ ReadAs m p [] t (decodeApdu p) := by
  have hstart : AtBoundary (fs.flatMap encode ++ p) (((fs.flatMap encode).flatMap fun _ => [.rxByte, .frameTake]) ++
      p.flatMap fun _ => [.rxByte, .frameTake]) s.rxOut (s.playRx (fs.flatMap encode ++ p)) :=
    ⟨hst, hr, by simp [State.playRx, hin], by simp [State.playRx, hs], rfl⟩
  obtain ⟨m, hm, hmst, hmr, hmin, hms, hmout⟩ := runSteps_play_frames fs hfs hstart
  obtain ⟨t, ht, _, _, h⟩ := runSteps_play_incomplete (s := m) (r := []) (evs := []) p (by simpa using hms) hmr
    (readAs_nil hmst (by simpa using hmin)) (by simpa using hp)
  refine ⟨m, t, ?_, hmout, h⟩
  rw [List.length_append, Nat.mul_add, runSteps_add_of_next _ hm, ht]

/-- Settles O57: the frames are taken one by one, and the rest is read as what it begins with. -/
theorem streamPutsOutItsFrames : Obligations.StreamPutsOutItsFrames := by
  intro s fs p hfs hs hin hr hst
  have reads (hp : ∀ f rest, decodeApdu p ≠ .frame f rest) := runSteps_playRx_reads hs hin hr hst hfs hp
  refine ⟨fun hd => ?_, fun e info hd => ?_⟩
  · obtain ⟨m, t, ht, hm, hread⟩ := reads (by simp [hd])
    rw [hd] at hread
    obtain ⟨hpart, _, _, hout⟩ := hread
    exact ⟨t, ht, hout.trans hm, hpart⟩
  · obtain ⟨m, t, ht, hm, hread⟩ := reads (by simp [hd])
    rw [hd] at hread
    obtain ⟨hst, _, herr, hinfo, hout⟩ := hread
    exact ⟨t, ht, by rw [hout, hm], hst, herr, hinfo⟩

end Sys2Proof.Machine
end

section
/-! PROOFS. The statements of 41_encoder.md: descriptors and the frames they denote (R145), the step rules of the encoder (R130
to R133, R143), its frame kinds (R134 to R141), and what it sends read back by the decoder (R142, R144, R146 to R150). -/

namespace Sys2Proof.Machine

variable {s t : State} {d : Descriptor} {f : Instr} {e out : List Octet} {n : Nat} {ds : List Descriptor} {evs : List EventKind}

/-! ## The decoder reads back an encoded frame (R147) -/

/-- Settles O55: nothing is put out early because the decoder accepts the encoding (O56), and what has been read at its last
octet is the frame. -/
theorem loopbackDeliversTheFrame : Obligations.LoopbackDeliversTheFrame := by
  intro s f hf hs hin hr hst
  obtain ⟨_, hbefore, _⟩ := (decoderAcceptsExactlyTheEncodings s (encode f) f hs hin hr hst).2 ⟨hf, rfl⟩
  obtain ⟨u, hu, hread⟩ := runSteps_feedRx_reads hs hin hr hst (encode f) []
  rw [List.append_nil] at hu
  rw [decodeApdu_encode hf] at hread
  obtain ⟨hheld, _, hout⟩ := hread
  exact ⟨decodeBody_encodeBody hf, hbefore, u, hu, hout, rxState_of_held hheld, hheld⟩

/-! ## Encodings on a stream (R149) -/

/-- Settles O7: `decodeApdu` reads the first frame off a stream of encodings, and what it reads is one frame and one rest. -/
theorem encodeSplitsInOneWay : Obligations.EncodeSplitsInOneWay := by
  have same_split {f g : Instr} {p q : List Octet} (hf : f.wf = true) (hg : g.wf = true)
      (h : encode f ++ p = encode g ++ q) : f = g ∧ p = q := by
    have hread := encodedFramesDecodeBack f p hf
    rw [h, encodedFramesDecodeBack g q hg] at hread
    cases hread
    exact ⟨rfl, rfl⟩
  refine ⟨fun f g hf hg h => ?_, fun f g rest hf hg h => ?_, fun fs => ?_⟩
  · exact (same_split (p := []) (q := []) hf hg (by simpa using h)).1
  · exact (same_split (p := rest) (q := []) hf hg (by simpa using h.symm)).2
  · induction fs with
    | nil =>
      intro gs _ _ h
      cases gs with
      | nil => rfl
      | cons g gs => simp [encode] at h
    | cons f fs ih =>
      intro gs hfs hgs h
      cases gs with
      | nil => simp [encode] at h
      | cons g gs =>
        obtain ⟨hf, hfs⟩ := List.forall_mem_cons.1 hfs
        obtain ⟨hg, hgs⟩ := List.forall_mem_cons.1 hgs
        obtain ⟨hfg, hrest⟩ := same_split hf hg (by simpa only [List.flatMap_cons] using h)
        rw [hfg, ih gs hfs hgs hrest]

/-! ## The octets of an encoded frame (R142, R144, R146) -/

/-- The control octets of every kind, with the bits its format reserves clear (R85). -/
theorem exists_control_octets (f : Instr) : ∃ cf1 cf2 cf3 cf4, encodeBody f = cf1 :: cf2 :: cf3 :: cf4 :: f.asdu ∧
    (kindCode f = 0#2 → cf3.getLsbD 0 = false) ∧
    (kindCode f = 1#2 → cf1 = 0x01#8 ∧ cf2 = 0#8 ∧ cf3.getLsbD 0 = false) ∧
    (kindCode f = 3#2 → cf2 = 0#8 ∧ cf3 = 0#8 ∧ cf4 = 0#8) := by
  cases f with
  | i ns nr asdu => exact ⟨_, _, _, _, rfl, fun _ => seqLo_getLsbD_zero nr, nofun, nofun⟩
  | s nr => exact ⟨_, _, _, _, rfl, nofun, fun _ => ⟨rfl, rfl, seqLo_getLsbD_zero nr⟩, nofun⟩
  | _ => exact ⟨_, _, _, _, rfl, nofun, nofun, fun _ => ⟨rfl, rfl, rfl⟩⟩

theorem controlWord_getLsbD_sixteen (cf1 cf2 cf3 cf4 : Octet) :
    (controlWord cf1 cf2 cf3 cf4).getLsbD 16 = cf3.getLsbD 0 :=
  controlWord_getLsbD cf1 cf2 cf3 cf4 (by decide)

/-- Settles O6: the lengths are those of the body, and each reserved bit is a bit of one control octet. -/
theorem encodedHeaderAndReservedBits : Obligations.EncodedHeaderAndReservedBits := by
  intro f hf
  obtain ⟨cf1, cf2, cf3, cf4, hbody, hi, hs, hu⟩ := exists_control_octets f
  have hle := encode_length_le hf
  have hlen := encode_length f
  refine ⟨BitVec.ofNat 8 (encodeBody f).length, cf1, cf2, cf3, cf4, f.asdu, ?_, ?_, hlen, rfl, by omega, hle, ?_, ?_, ?_⟩
  · rw [encode, hbody]
    rfl
  · rw [← encodeBody_length_eq_toNat hf]
    rfl
  · intro hk
    rw [controlWord_getLsbD_sixteen, hi hk]
  · intro hk k h2 h16
    obtain ⟨rfl, rfl, h0⟩ := hs hk
    obtain rfl | hlt := Nat.eq_or_lt_of_le h16
    · rw [controlWord_getLsbD_sixteen, h0]
    · rw [controlWord_getLsbD _ _ _ _ (by omega), if_pos hlt]
      split
      · have hk0 : k ≠ 0 := by omega
        simp [hk0]
      · exact BitVec.getLsbD_zero
  · intro hk k h8 h31
    obtain ⟨rfl, rfl, rfl⟩ := hu hk
    rw [controlWord_getLsbD _ _ _ _ (by omega), if_neg (by omega)]
    simp

/-! ## Descriptors (R145) -/

theorem denote_of_kind_zero (hk : d.kind = 0#2) :
    d.denote = if d.asduLen.toNat ≤ 249 then some (.i d.ns d.nr d.asduOctets) else none :=
  if_pos hk

theorem denote_of_kind_one (hk : d.kind = 1#2) : d.denote = some (.s d.nr) := by
  rw [Descriptor.denote, if_neg (by simp [hk]), if_pos hk]

theorem denote_of_kind_two (hk : d.kind = 2#2) : d.denote = none := by
  simp [Descriptor.denote, hk]

theorem denote_of_kind_three (hk : d.kind = 3#2) : d.denote = ufuncFrame d.ufunc := by
  simp [Descriptor.denote, hk]

theorem kind_cases : ∀ k : BitVec 2, k = 0#2 ∨ k = 1#2 ∨ k = 2#2 ∨ k = 3#2 := by
  decide

/-- The codes 6 and 7 name no function (R37). -/
theorem ufuncFrame_eq_none_iff : ∀ {c : BitVec 3}, ufuncFrame c = none ↔ 6 ≤ c.toNat := by
  decide

/-- Which descriptors are ill-formed (R145). -/
theorem denote_eq_none_iff :
    d.denote = none ↔ (d.kind = 0#2 ∧ 249 < d.asduLen.toNat) ∨ d.kind = 2#2 ∨ (d.kind = 3#2 ∧ 6 ≤ d.ufunc.toNat) := by
  rcases kind_cases d.kind with hk | hk | hk | hk
  · simp [denote_of_kind_zero hk, hk]
  · simp [denote_of_kind_one hk, hk]
  · simp [denote_of_kind_two hk, hk]
  · simp [denote_of_kind_three hk, hk, ufuncFrame_eq_none_iff]

theorem descriptor_wf_eq_false_iff : d.wf = false ↔ d.denote = none := by
  simp [Descriptor.wf]

/-- Settles O40: kind by kind; a 3-bit code of at least 6 is 6 or 7. -/
theorem descriptorWellFormedness : Obligations.DescriptorWellFormedness := by
  intro d
  refine ⟨fun hk hlen => (denote_of_kind_zero hk).trans (if_pos hlen), denote_of_kind_one, fun hk hu => ?_, ?_⟩
  · have hsome : ufuncFrame d.ufunc ≠ none := fun hnone => absurd (ufuncFrame_eq_none_iff.1 hnone) (by omega)
    obtain ⟨f, hf⟩ := Option.ne_none_iff_exists'.1 hsome
    exact ⟨f, (denote_of_kind_three hk).trans hf, ufuncFrame_eq_some_iff.1 hf⟩
  · have hcodes : ∀ c : BitVec 3, 6 ≤ c.toNat ↔ c = 6#3 ∨ c = 7#3 := by decide
    rw [descriptor_wf_eq_false_iff, denote_eq_none_iff, hcodes]
    tauto

/-! ## A descriptor at hand -/

theorem TxAtHand.lists (h : TxAtHand d s) :
    s.resetDone = true ∧ (∃ evs, s.schedule = .txFrame :: evs) ∧ ∃ ds, s.descriptors = d :: ds := by
  obtain ⟨hr, hs, hd⟩ := h
  exact ⟨hr, List.head?_eq_some_iff.1 hs, List.head?_eq_some_iff.1 hd⟩

/-- A well-formed descriptor in `TX_IDLE` is accepted (R131). -/
theorem TxAtHand.step_accepted (h : TxAtHand d s) (hst : s.txState = .idle) (hf : d.denote = some f) :
    step s = .next (accepted (encode f) s) := by
  obtain ⟨hr, ⟨evs, hs⟩, ds, hd⟩ := h.lists
  exact step_of_transition (.txLoad hs hr hd hst hf)

/-- An ill-formed descriptor in `TX_IDLE` is an error (R143). -/
theorem TxAtHand.step_rejected (h : TxAtHand d s) (hst : s.txState = .idle) (hf : d.denote = none) :
    step s = .next (rejected d.badCause s) := by
  obtain ⟨hr, ⟨evs, hs⟩, ds, hd⟩ := h.lists
  exact step_of_transition (.txReject hs hr hd hst hf)

/-- In `TX_ERR` a descriptor is discarded (R133). -/
theorem TxAtHand.step_discards (h : TxAtHand d s) (hst : s.txState = .err) : step s = .next s.dropDescriptor.retire := by
  obtain ⟨hr, ⟨evs, hs⟩, ds, hd⟩ := h.lists
  exact step_of_transition (.txDiscard hs hr hd hst)

/-- In `TX_SEND` a descriptor waits (R130). -/
theorem TxAtHand.step_waits (h : TxAtHand d s) (hst : s.txState = .send) : step s = .next s.retire := by
  obtain ⟨hr, ⟨evs, hs⟩, _⟩ := h.lists
  exact step_of_transition (.txWaits hs hr (.inr hst))

theorem TxAtHand.step_eq_exec (h : TxAtHand d s) (hf : d.denote = some f) : step s = exec f s := by
  obtain ⟨hr, ⟨evs, hs⟩, ds, hd⟩ := h.lists
  simp only [step_txFrame hs hr, txFrameEvent, hd, txDescriptor, hf]

/-- Settles O17: what a descriptor at hand runs is the frame it denotes. -/
theorem stepRunsTheDescriptorsFrame : Obligations.StepRunsTheDescriptorsFrame :=
  fun _ _ _ h hf => h.step_eq_exec hf

/-- Settles O36: the cells of the encoding are those just written, and no other is (`read_writeAll_of_length_le`). -/
theorem acceptDescriptorRule : Obligations.AcceptDescriptorRule := by
  intro s d f h hst hf
  have hlen := encode_length f
  refine ⟨by omega, encode_length_le (denote_wf hf), h.step_accepted hst hf, fun i hi => ?_,
    fun i hi => read_writeAll_of_length_le _ hi⟩
  change (s.txBuf.writeAll 0 (encode f)).read i = _
  rw [Memory.read_writeAll, if_pos (by omega), Nat.sub_zero]

/-- Settles O39: the kind tells which of the two errors an ill-formed descriptor raises. -/
theorem rejectDescriptorRule : Obligations.RejectDescriptorRule := by
  intro s d h hst
  refine ⟨fun hk hlen => ?_, fun hbad => ?_, fun hwf => denote_eq_none_iff.1 (descriptor_wf_eq_false_iff.1 hwf)⟩
  · rw [h.step_rejected hst (denote_eq_none_iff.2 (.inl ⟨hk, hlen⟩)), Descriptor.badCause, if_pos hk]
  · have hk : d.kind ≠ 0#2 := by
      rcases hbad with hk | ⟨hk, _⟩ <;> simp [hk]
    rw [h.step_rejected hst (denote_eq_none_iff.2 (.inr hbad)), Descriptor.badCause, if_neg hk]

/-! ## Each frame kind (R134 to R141) -/

/-- The frame a descriptor in `TX_IDLE` denotes completes with its encoding loaded. -/
theorem TxAtHand.completes (h : TxAtHand d s) (hst : s.txState = .idle) (hf : d.denote = some f) :
    step s = exec f s ∧ exec f s = .next (accepted (encode f) s) ∧ (accepted (encode f) s).txBusy = true :=
  ⟨h.step_eq_exec hf, (h.step_eq_exec hf).symm.trans (h.step_accepted hst hf), rfl⟩

/-- Settles O42: up to 249 ASDU octets the descriptor denotes the I-frame, above it is rejected. -/
theorem sendNumberedFrame : Obligations.SendNumberedFrame := by
  rintro s d asdu h hst hk rfl
  have hlen : (d.asdu.toList.take d.asduLen.toNat).length = d.asduLen.toNat := asduOctets_length d
  refine ⟨fun hle => ?_, fun hgt => ?_⟩
  · have hf : d.denote = some (.i d.ns d.nr (d.asdu.toList.take d.asduLen.toNat)) :=
      (denote_of_kind_zero hk).trans (if_pos (hlen ▸ hle))
    obtain ⟨hstep, hexec, hbusy⟩ := h.completes hst hf
    obtain ⟨encode_i, _⟩ := encodeIsTheEightEquations
    exact ⟨hstep, by rw [hexec, encode_i], hbusy, encode_length _⟩
  · exact (rejectDescriptorRule s d h hst).1 hk (hlen ▸ hgt)

/-- Settles O43: the descriptor denotes the S-frame of its `nr`. -/
theorem sendAcknowledgeFrame : Obligations.SendAcknowledgeFrame := by
  intro s d h hst hk
  obtain ⟨hstep, hexec, hbusy⟩ := h.completes hst (denote_of_kind_one hk)
  obtain ⟨_, encode_s, _⟩ := encodeIsTheEightEquations
  exact ⟨hstep, by rw [hexec, encode_s], hbusy⟩

/-- Settles O44: the code selects the function, whose encoding is constant. -/
theorem sendControlFrame : Obligations.SendControlFrame := by
  intro p hp s d h hst hk hu
  have hrow : ufuncFrame p.2.2 = some p.1 ∧ encode p.1 = [0x68#8, 0x04#8, p.2.1, 0x00#8, 0x00#8, 0x00#8] := by
    clear hu
    revert p
    decide
  obtain ⟨hf, hencode⟩ := hrow
  rw [← hencode]
  exact h.completes hst ((denote_of_kind_three hk).trans (hu ▸ hf))

/-- Settles O60: the value is not well-formed, so `exec` rejects it and no descriptor denotes it. -/
theorem oversizedFrameValueIsTooLarge : Obligations.OversizedFrameValueIsTooLarge := by
  intro s d ns nr asdu h hst hlen
  have hwf : ¬ (Instr.i ns nr asdu).wf = true := fun hwf => absurd ((wf_iff _).1 hwf) (Nat.not_le.2 hlen)
  obtain ⟨_, ⟨evs, hs⟩, ds, hd⟩ := h.lists
  refine ⟨?_, fun hf => hwf (denote_wf hf)⟩
  rw [exec_tx _ hs, sendFrame, hd]
  simp only [acceptTx, hst]
  exact if_neg hwf

/-! ## Which events do something to the encoder (R130, R133, R151) -/

/-- What a descriptor at hand leads to in each state of the encoder. -/
theorem TxAtHand.step_cases (h : TxAtHand d s) :
    (s.txState = .send ∧ step s = .next s.retire) ∨
    (s.txState = .err ∧ step s = .next s.dropDescriptor.retire) ∨
    (s.txState = .idle ∧ ∃ f, d.denote = some f ∧ step s = .next (accepted (encode f) s)) ∨
    (s.txState = .idle ∧ d.denote = none ∧ step s = .next (rejected d.badCause s)) := by
  cases hst : s.txState with
  | send => exact .inl ⟨rfl, h.step_waits hst⟩
  | err => exact .inr (.inl ⟨rfl, h.step_discards hst⟩)
  | idle =>
    cases hf : d.denote with
    | some f => exact .inr (.inr (.inl ⟨rfl, f, rfl, h.step_accepted hst hf⟩))
    | none => exact .inr (.inr (.inr ⟨rfl, rfl, h.step_rejected hst hf⟩))

/-- `TxByte` in `TX_SEND`, with the octet it finds (R132). -/
theorem step_txByte_emits {b : Octet} (hr : s.resetDone = true) (hs : s.schedule.head? = some .txByte)
    (hst : s.txState = .send) (hb : s.nextTxOctet = some b) :
    step s = .next (if s.txIdx.toNat + 1 = s.txLen.toNat then (s.emit b).finishTx.retire
      else (s.emit b).advanceTx.retire) := by
  obtain ⟨evs, hs⟩ := List.head?_eq_some_iff.1 hs
  split
  · exact step_of_transition (.byteLast hs hr hst hb ‹_›)
  · exact step_of_transition (.byteMore hs hr hst hb ‹_›)

/-- Only `TxByte` puts an octet on the outbound stream (R130). -/
theorem step_outbound (h : step s = .next t) (hs : s.schedule.head? ≠ some .txByte) : t.outbound = s.outbound := by
  cases step_transition h with
  | rxStart hs' | rxLen hs' =>
    obtain ⟨_, _, _, _, _, hout, _⟩ := rxEvent_sameTx (.inl (by simp [hs'])) h
    exact hout
  | byteLast hs' | byteMore hs' => simp [hs'] at hs
  | _ => rfl

/-- In `TX_SEND` a step waits, emits, or resets; no descriptor is accepted (R130). -/
theorem step_of_send (hst : s.txState = .send) (h : step s = .next t) :
    t.descriptors = s.descriptors ∧ (t.txState = .send ∨ s.schedule.head? = some .reset ∨
      (s.schedule.head? = some .txByte ∧ s.txIdx.toNat + 1 = s.txLen.toNat)) := by
  cases step_transition h with
  | reset hs => exact ⟨rfl, .inr (.inl (by simp [hs]))⟩
  | rxStart hs | rxLen hs =>
    obtain ⟨hst', _, _, _, _, _, hdesc⟩ := rxEvent_sameTx (.inl (by simp [hs])) h
    exact ⟨hdesc, .inl (hst'.trans hst)⟩
  | txLoad _ _ _ hst' | txReject _ _ _ hst' | txDiscard _ _ _ hst' => simp [hst] at hst'
  | byteLast hs _ _ _ hc => exact ⟨rfl, .inr (.inr ⟨by simp [hs], hc⟩)⟩
  | _ => exact ⟨rfl, .inl hst⟩

/-- In `TX_ERR` a step discards a descriptor or leaves the encoder alone, until `Reset` (R133). -/
theorem step_of_txErr (hst : s.txState = .err) (h : step s = .next t) (hreset : s.schedule.head? ≠ some .reset) :
    SameTx s t ∨ t = s.dropDescriptor.retire := by
  cases step_transition h with
  | reset hs => simp [hs] at hreset
  | rxStart hs | rxLen hs => exact .inl (rxEvent_sameTx (.inl (by simp [hs])) h)
  | txLoad _ _ _ hst' | txReject _ _ _ hst' | byteLast _ _ hst' | byteMore _ _ hst' => simp [hst] at hst'
  | txDiscard => exact .inr rfl
  | _ => exact .inl ⟨rfl, rfl, rfl, rfl, rfl, rfl, rfl⟩

/-- Settles O38: discarding a descriptor touches no element of the encoder (`step_of_txErr`). -/
theorem failedEncoderDiscards : Obligations.FailedEncoderDiscards := by
  refine fun s hst => ⟨fun d h => h.step_discards hst, fun t hreset h => ?_⟩
  rcases step_of_txErr hst h hreset with ⟨hst', hlen, hidx, hbuf, herr, hout, _⟩ | rfl
  · exact ⟨hst'.trans hst, hout, herr, hbuf, hlen, hidx⟩
  · exact ⟨hst, rfl, rfl, rfl, rfl, rfl⟩

/-- Settles O35: outside `TX_SEND` every descriptor at hand is used up, in it none is (`step_of_send`). -/
theorem encoderEventsEnabled : Obligations.EncoderEventsEnabled := by
  refine ⟨fun s d h hst => ⟨?_, ?_⟩, fun s t hst h => ?_, fun s hi hr hs hst => ?_, fun s t hs hst h => ?_,
    fun s t hs h => step_outbound h hs⟩
  · simp [txcReady_eq_not_txValid, State.txValid, hst]
  · rcases h.step_cases with ⟨hst', _⟩ | ⟨_, hstep⟩ | ⟨_, _, _, hstep⟩ | ⟨_, _, hstep⟩
    · exact absurd hst' hst
    all_goals exact ⟨_, hstep, rfl⟩
  · obtain ⟨hdesc, hev⟩ := step_of_send hst h
    exact ⟨by simp [txcReady_eq_not_txValid, State.txValid, hst], hdesc, hev.resolve_left⟩
  · obtain ⟨b, hb⟩ := hi.2.exists_nextTxOctet hst
    refine ⟨_, b, step_txByte_emits hr hs hst hb, read_of_nextTxOctet hb, ?_⟩
    by_cases hc : s.txIdx.toNat + 1 = s.txLen.toNat
    · simp [hc]
    · simp [hc, hst]
  · obtain ⟨evs, hs⟩ := List.head?_eq_some_iff.1 hs
    cases step_transition h with
    | byteWaits => exact ⟨rfl, rfl, rfl, rfl, rfl, rfl, rfl⟩
    | byteLast _ _ hst' | byteMore _ _ hst' => exact absurd hst' hst
    | idle hs' | reset hs' | rxWaits hs' | rxStart hs' | rxLen hs' | rxMore hs' | rxFrame hs' | rxMalformed hs'
    | rxDiscard hs' | takeWaits hs' | take hs' | txWaits hs' | txLoad hs' | txReject hs' | txDiscard hs' =>
      simp [hs] at hs'

/-- A step that changes `tx_state` is a `Reset`, the `TxByte` of a last octet, or a descriptor accepted in `TX_IDLE`. -/
theorem txState_change (h : step s = .next t) (hne : t.txState ≠ s.txState) :
    s.schedule.head? = some .reset ∨ (s.schedule.head? = some .txByte ∧ s.txState = .send ∧ t.txState = .idle) ∨
    (s.schedule.head? = some .txFrame ∧ s.txState = .idle ∧ (t.txState = .send ∨ t.txState = .err)) := by
  cases step_transition h with
  | reset hs => exact .inl (by simp [hs])
  | rxStart hs | rxLen hs =>
    obtain ⟨hst', _⟩ := rxEvent_sameTx (.inl (by simp [hs])) h
    exact absurd hst' hne
  | txLoad hs _ _ hst => exact .inr (.inr ⟨by simp [hs], hst, .inl rfl⟩)
  | txReject hs _ _ hst => exact .inr (.inr ⟨by simp [hs], hst, .inr rfl⟩)
  | byteLast hs _ hst => exact .inr (.inl ⟨by simp [hs], hst, rfl⟩)
  | _ => exact absurd rfl hne

/-- Settles O41: the rows are the step rules, and there are no others (`txState_change`). -/
theorem encoderTransitionTable : Obligations.EncoderTransitionTable := by
  refine ⟨fun s d h => ?_, fun s hi hr hs hst => ?_, fun s hs => ?_, fun s t h hne => txState_change h hne⟩
  · rcases h.step_cases with ⟨hst, hstep⟩ | ⟨hst, hstep⟩ | ⟨hst, f, hf, hstep⟩ | ⟨hst, hf, hstep⟩
    · exact ⟨_, hstep, by simp [hst], by simp [hst]⟩
    · exact ⟨_, hstep, by simp [hst], by simp [hst]⟩
    · exact ⟨_, hstep, by simp [Descriptor.wf, hf, accepted], by simp [hst]⟩
    · exact ⟨_, hstep, by simp [Descriptor.wf, hf, rejected], by simp [hst]⟩
  · obtain ⟨b, hb⟩ := hi.exists_nextTxOctet hst
    obtain ⟨_, _, hlt⟩ := hi.range hst
    refine ⟨_, step_txByte_emits hr hs hst hb, ?_⟩
    by_cases hc : s.txIdx.toNat + 1 = s.txLen.toNat
    · rw [if_pos hc, if_neg (by omega)]
      rfl
    · rw [if_neg hc, if_pos (by omega)]
      exact hst
  · obtain ⟨evs, hs⟩ := List.head?_eq_some_iff.1 hs
    exact ⟨_, step_reset hs, rfl⟩

/-! ## The octets of an accepted frame (R132) -/

/-- The octets `e` are in `tx_buf` and none of them has gone (R131). -/
structure Loaded (e : List Octet) (s : State) : Prop where
  resetDone : s.resetDone = true
  txState : s.txState = .send
  txIdx : s.txIdx = 0#8
  txLen : s.txLen.toNat = e.length
  nonempty : e ≠ []
  cells : s.txBuf.readRange 0 e.length = some e

/-- `t` is `s` with the first `n` of the octets `e` emitted, one scheduled event used for each. -/
structure EmittedFrom (s : State) (e : List Octet) (n : Nat) (t : State) : Prop where
  resetDone : t.resetDone = true
  txState : t.txState = if n = e.length then .idle else .send
  txIdx : n < e.length → t.txIdx.toNat = n
  txBuf : t.txBuf = s.txBuf
  txLen : t.txLen = s.txLen
  txErr : t.txErr = s.txErr
  outbound : t.outbound = s.outbound ++ e.take n
  descriptors : t.descriptors = s.descriptors
  schedule : t.schedule = s.schedule.drop n

theorem nextTxOctet_of_read {b : Octet} (hlt : s.txIdx.toNat < 255) (hb : s.txBuf.read s.txIdx.toNat = some b) :
    s.nextTxOctet = some b :=
  (if_pos hlt).trans hb

theorem Loaded.emittedFrom_zero (hl : Loaded e s) : EmittedFrom s e 0 s where
  resetDone := hl.resetDone
  txState := by rw [hl.txState, if_neg fun h => hl.nonempty (List.length_eq_zero_iff.1 h.symm)]
  txIdx _ := by rw [hl.txIdx, BitVec.toNat_zero]
  txBuf := rfl
  txLen := rfl
  txErr := rfl
  outbound := by simp
  descriptors := rfl
  schedule := rfl

/-- The octet at hand after `n` octets is octet `n`. -/
theorem EmittedFrom.nextTxOctet (hl : Loaded e s) (h : EmittedFrom s e n t) (hn : n < e.length) :
    t.nextTxOctet = some e[n] := by
  have hlen := hl.txLen
  have hlt := s.txLen.isLt
  have hcell : s.txBuf.read n = e[n]? := by simpa using (Memory.readRange_eq_some_iff.1 hl.cells).2 n hn
  refine nextTxOctet_of_read (by rw [h.txIdx hn]; omega) ?_
  rw [h.txIdx hn, h.txBuf, hcell, List.getElem?_eq_getElem hn]

/-- One more `TxByte` emits one more octet; the last one leaves the encoder idle. -/
theorem EmittedFrom.step (hl : Loaded e s) (h : EmittedFrom s e n t) (hn : n < e.length)
    (hs : s.schedule[n]? = some .txByte) : ∃ u, step t = .next u ∧ EmittedFrom s e (n + 1) u := by
  have hst : t.txState = .send := by rw [h.txState, if_neg hn.ne]
  have hlen : t.txLen.toNat = e.length := by rw [h.txLen, hl.txLen]
  have hhead : t.schedule.head? = some .txByte := by rw [h.schedule, List.head?_drop, hs]
  have hout : t.outbound ++ [e[n]] = s.outbound ++ e.take (n + 1) := by
    rw [h.outbound, List.append_assoc, List.take_append_getElem]
  have hsched : t.schedule.tail = s.schedule.drop (n + 1) := by rw [h.schedule, List.tail_drop]
  refine ⟨_, step_txByte_emits h.resetDone hhead hst (h.nextTxOctet hl hn), ?_⟩
  rw [h.txIdx hn, hlen]
  by_cases hc : n + 1 = e.length
  · rw [if_pos hc]
    exact ⟨h.resetDone, (if_pos hc).symm, fun hlt => absurd hc hlt.ne, h.txBuf, h.txLen, h.txErr, hout,
      h.descriptors, hsched⟩
  · rw [if_neg hc]
    have hlt := t.txLen.isLt
    have hidx : (t.txIdx + 1#8).toNat = n + 1 := by
      rw [toNat_add_one (by rw [h.txIdx hn]; omega), h.txIdx hn]
    exact ⟨h.resetDone, hst.trans (if_neg hc).symm, fun _ => hidx, h.txBuf, h.txLen, h.txErr, hout,
      h.descriptors, hsched⟩

/-- A run of `n` `TxByte` events emits the first `n` octets. -/
theorem Loaded.runSteps (hl : Loaded e s) (hn : n ≤ e.length) (hs : ∀ k, k < n → s.schedule[k]? = some .txByte) :
    ∃ t, runSteps n s = .next t ∧ EmittedFrom s e n t := by
  induction n with
  | zero => exact ⟨s, rfl, hl.emittedFrom_zero⟩
  | succ n ih =>
    obtain ⟨t, ht, h⟩ := ih (by omega) fun k hk => hs k (by omega)
    obtain ⟨u, hu, h⟩ := h.step hl hn (hs n (by omega))
    exact ⟨u, by rw [runSteps_add_of_next 1 ht, runSteps_succ_of_next hu, Machine.runSteps], h⟩

/-- Settles O37: one `TxByte` is `step_txByte_emits`, a run of them `Loaded.runSteps`. -/
theorem emitOctetRule : Obligations.EmitOctetRule := by
  refine ⟨fun s b hr hs hst hlt hb => ?_, fun s e n hr hst hidx hlen hne hcells hn hs => ?_⟩
  · rw [step_txByte_emits hr hs hst (nextTxOctet_of_read hlt hb)]
    rfl
  · obtain ⟨t, ht, h⟩ := Loaded.runSteps ⟨hr, hst, hidx, hlen, hne, hcells⟩ hn hs
    exact ⟨t, ht, h.outbound, h.txState, h.txBuf, h.txLen, h.txErr⟩

/-! ## A stream of descriptors (R150) -/

/-- The events `playTx` schedules for one descriptor. -/
def sendEvents (d : Descriptor) : List EventKind :=
  .txFrame :: ((d.denote.map encode).getD []).map fun _ => .txByte

theorem playTx_schedule (s : State) (ds : List Descriptor) :
    (s.playTx ds).schedule = s.schedule ++ ds.flatMap sendEvents :=
  rfl

theorem sendEvents_of_denote (hf : d.denote = some f) :
    sendEvents d = .txFrame :: List.replicate (encode f).length .txByte := by
  simp [sendEvents, hf]

/-- `t` is in `TX_IDLE` after a `Reset`, offered the descriptors `ds` with the events `evs` to come, and has emitted `out`. -/
def TxQuiet (ds : List Descriptor) (evs : List EventKind) (out : List Octet) (t : State) : Prop :=
  t.txState = .idle ∧ t.resetDone = true ∧ t.descriptors = ds ∧ t.schedule = evs ∧ t.outbound = out

theorem loaded_accepted (hr : s.resetDone = true) (hf : f.wf = true) : Loaded (encode f) (accepted (encode f) s) := by
  obtain ⟨_, hlen, hcells, _⟩ := Sending.of_loadTx (s := s) hf
  exact ⟨hr, rfl, rfl, hlen, by simp [encode], hlen ▸ hcells⟩

/-- One descriptor is accepted and its frame's octets leave. -/
theorem runSteps_sendEvents (hf : d.denote = some f) (h : TxQuiet (d :: ds) (sendEvents d ++ evs) out t) :
    ∃ u, runSteps (sendEvents d).length t = .next u ∧ TxQuiet ds evs (out ++ encode f) u := by
  obtain ⟨hst, hr, hd, hs, rfl⟩ := h
  rw [sendEvents_of_denote hf, List.cons_append] at hs
  have hload : step t = .next (accepted (encode f) t) :=
    TxAtHand.step_accepted ⟨hr, by rw [hs]; rfl, by rw [hd]; rfl⟩ hst hf
  have hsched : (accepted (encode f) t).schedule = List.replicate (encode f).length .txByte ++ evs := by
    rw [step_schedule hload, hs]
    rfl
  obtain ⟨u, hu, h⟩ := (loaded_accepted hr (denote_wf hf)).runSteps le_rfl fun k hk => by
    rw [hsched, List.getElem?_append_left (by simpa using hk), List.getElem?_replicate_of_lt hk]
  refine ⟨u, ?_, by rw [h.txState, if_pos rfl], h.resetDone, ?_, ?_, ?_⟩
  · rw [sendEvents_of_denote hf, List.length_cons, List.length_replicate, runSteps_succ_of_next hload, hu]
  · rw [h.descriptors]
    exact congrArg List.tail hd
  · rw [h.schedule, hsched, List.drop_left' List.length_replicate]
  · rw [h.outbound, List.take_length]
    rfl

/-- Every descriptor is accepted in turn, and the octets of the frames leave in order. -/
theorem runSteps_flatMap_sendEvents : ∀ (ds : List Descriptor) {fs : List Instr} {out : List Octet} {t : State},
    ds.map Descriptor.denote = fs.map some → TxQuiet ds (ds.flatMap sendEvents) out t →
    ∃ u, runSteps (ds.flatMap sendEvents).length t = .next u ∧ TxQuiet [] [] (out ++ fs.flatMap encode) u := by
  intro ds
  induction ds with
  | nil =>
    intro fs out t hfs h
    obtain rfl : fs = [] := List.map_eq_nil_iff.1 hfs.symm
    exact ⟨t, rfl, by simpa using h⟩
  | cons d ds ih =>
    intro fs out t hfs h
    obtain ⟨f, gs, rfl, hf, hgs⟩ := List.map_eq_cons_iff.1 hfs.symm
    obtain ⟨m, hm, h⟩ := runSteps_sendEvents hf.symm h
    obtain ⟨u, hu, h⟩ := ih hgs.symm h
    refine ⟨u, ?_, by simpa using h⟩
    rw [List.flatMap_cons, List.length_append, runSteps_add_of_next _ hm, hu]

/-- Settles O58: the encoder's run descriptor by descriptor; the decoder's is that of any stream of frames
(O57). -/
theorem encoderStreamLoopsBack : Obligations.EncoderStreamLoopsBack := by
  intro s ds fs hfs hs hd hin hr htx hrx
  have hwf : ∀ f ∈ fs, f.wf = true := by
    intro f hf
    obtain ⟨d, _, hden⟩ := List.mem_map.1 (hfs ▸ List.mem_map_of_mem hf)
    exact denote_wf hden
  have hquiet : TxQuiet ds (ds.flatMap sendEvents) s.outbound (s.playTx ds) :=
    ⟨htx, hr, by simp [State.playTx, hd], by simp [playTx_schedule, hs], rfl⟩
  obtain ⟨t, ht, hst, _, _, _, hout⟩ := runSteps_flatMap_sendEvents ds hfs hquiet
  obtain ⟨u, hu, huout, hust⟩ := (streamPutsOutItsFrames s fs [] hwf hs hin hr hrx).1 rfl
  rw [List.append_nil] at hu
  refine ⟨⟨t, ?_, hst, hout⟩, u, hu, hust, huout⟩
  rw [playTx_schedule, hs, List.nil_append, ht]

end Sys2Proof.Machine
end

section
/-! PROOFS. The statements of 60_exceptions.md: error entry (R166), errors until `Reset` (R169), and the copies of several
connections (R177). -/

namespace Sys2Proof.Machine

variable {s t : State}

/-! ## Entering a decoder error (R166) -/

/-- The steps into `RX_ERR`: an error is raised on the state as it is (R101, R102), or at the last octet of a body, with that
octet stored (R104). -/
theorem step_raises_rxErr (hst : s.rxState ≠ .err) (h : step s = .next t) (ht : t.rxState = .err) :
    ∃ (e : ErrCode) (info : Octet), e ≠ .none ∧
      (t = (s.raiseRx e info).consume.retire ∨
        (s.rxState = .body ∧ ∃ b, t = ((s.storeRx b).raiseRx e info).consume.retire)) := by
  cases step_transition h with
  | @rxStart _ b =>
    rcases startOctet_cases b s with he | he
    · simp [he] at ht
    · exact ⟨.invalidStartByte, b, by simp, .inl (by rw [he])⟩
  | @rxLen _ b =>
    rcases lengthOctet_cases b s with he | he | ⟨_, _, he⟩
    · exact ⟨.frameTooLarge, b, by simp, .inl (by rw [he])⟩
    · exact ⟨.frameTooShort, b, by simp, .inl (by rw [he])⟩
    · simp [he] at ht
  | rxMalformed _ _ _ hbody _ _ _ hd => exact ⟨_, _, decodeBody_err_ne_none hd, .inr ⟨hbody, _, rfl⟩⟩
  | reset | rxFrame | take => cases ht
  | _ => exact absurd ht hst

/-- Settles O30: what `raiseRx` records and puts out, on either of the two states it is applied to (`step_raises_rxErr`). -/
theorem decoderErrorEntry : Obligations.DecoderErrorEntry := by
  intro s t hst h ht
  obtain ⟨e, info, hne, rfl | ⟨hbody, b, rfl⟩⟩ := step_raises_rxErr hst h ht
  · exact ⟨e, info, hne, rfl, rfl, rfl, rfl, ⟨rfl, rfl, rfl, rfl, rfl, rfl, rfl⟩, fun _ => ⟨rfl, rfl⟩⟩
  · exact ⟨e, info, hne, rfl, rfl, rfl, rfl, ⟨rfl, rfl, rfl, rfl, rfl, rfl, rfl⟩, fun hno => absurd hbody hno⟩

/-! ## What is offered in an error is discarded (R108, R133, R169) -/

/-- An event other than `Reset` goes on only after a `Reset` (R193). -/
theorem resetDone_of_event {ev : EventKind} (hs : s.schedule.head? = some ev) (hne : ev ≠ .reset)
    (h : step s = .next t) : s.resetDone = true := by
  cases step_transition h with
  | idle hs' => simp [hs'] at hs
  | reset hs' => simp [hs', hne.symm] at hs
  | _ => assumption

/-- Outside `RX_HOLD` an `RxByte` drops the octet offered, if any. -/
theorem rxByte_drops_octet (hst : s.rxState ≠ .hold) (hs : s.schedule.head? = some .rxByte) (h : step s = .next t) :
    t.inbound = s.inbound.tail := by
  cases hin : s.inbound with
  | nil => rcases step_inbound h with he | he <;> simp [he, hin]
  | cons b bs =>
    have hr := resetDone_of_event hs (by simp) h
    rw [rxByte_inbound (b := b) ⟨hr, hs, by simp [hin]⟩ hst h, hin]

/-- In `TX_ERR` a `TxFrame` drops the descriptor offered, if any. -/
theorem txFrame_drops_descriptor (hst : s.txState = .err) (hs : s.schedule.head? = some .txFrame)
    (h : step s = .next t) : t.descriptors = s.descriptors.tail := by
  cases hd : s.descriptors with
  | nil =>
    rcases step_of_txErr hst h (by simp [hs]) with ⟨_, _, _, _, _, _, hdesc⟩ | rfl
    · simp [hdesc, hd]
    · simp [hd]
  | cons d ds =>
    have hr := resetDone_of_event hs (by simp) h
    have hdrop := TxAtHand.step_discards (d := d) ⟨hr, hs, by simp [hd]⟩ hst
    cases h.symm.trans hdrop
    simp [hd]

/-! ## The other half goes on (R169) -/

/-- What a TX event leads to is the state it found with its own half new. -/
theorem txEvent_next_eq (hev : TxEvent s) (h : step s = .next t) : s.retire.withTxOf t = t := by
  have hr : s.resetDone = true := hev.elim (resetDone_of_event · (by simp) h) (resetDone_of_event · (by simp) h)
  exact State.eq_of_halves (txEvent_sameRx hev h).symm (sameTx_withTxOf _ t) (step_schedule h).symm
    (hr.trans (step_resetDone h hr).symm)

/-- What an RX event leads to is the state it found with its own half new. -/
theorem rxEvent_next_eq (hev : RxEvent s) (h : step s = .next t) : s.retire.withRxOf t = t := by
  have hr : s.resetDone = true := hev.elim (resetDone_of_event · (by simp) h) (resetDone_of_event · (by simp) h)
  exact State.eq_of_halves (sameRx_withRxOf _ t) (rxEvent_sameTx hev h).symm (step_schedule h).symm
    (hr.trans (step_resetDone h hr).symm)

/-- A TX event does the same whatever error state the decoder is in. -/
theorem txEvent_beside_rxErr (r : RxState) (e : ErrCode) (hev : TxEvent s) (h : step s = .next t) :
    step { s with rxState := r, rxErr := e } = .next { t with rxState := r, rxErr := e } := by
  have ht := (step_transition h).withTxOf (u := { s with rxState := r, rxErr := e }) hev rfl rfl
  rw [← txEvent_next_eq hev h]
  exact step_of_transition ht

/-- An RX event does the same whatever error state the encoder is in. -/
theorem rxEvent_beside_txErr (r : TxState) (e : ErrCode) (hev : RxEvent s) (h : step s = .next t) :
    step { s with txState := r, txErr := e } = .next { t with txState := r, txErr := e } := by
  have ht := (step_transition h).withRxOf (u := { s with txState := r, txErr := e }) hev rfl rfl
  rw [← rxEvent_next_eq hev h]
  exact step_of_transition ht

/-- Settles O52: an error state keeps its registers and drops what is offered (R108, R133), and an event of one half does not
look at the other. -/
theorem errorsStayUntilReset : Obligations.ErrorsStayUntilReset := by
  refine ⟨fun s t hst hreset h => ?_, fun s t hst hreset h => ?_, fun s t r e => txEvent_beside_rxErr r e,
    fun s t r e => rxEvent_beside_txErr r e⟩
  · obtain ⟨hst', hout, herr, hinfo⟩ := step_of_err hst h hreset
    exact ⟨hst', herr, hinfo, hout, fun hs => rxByte_drops_octet (by simp [hst]) hs h⟩
  · obtain ⟨hst', hout, herr, _⟩ := (failedEncoderDiscards s hst).2 t hreset h
    exact ⟨hst', herr, hout, fun hs => txFrame_drops_descriptor hst hs h⟩

/-! ## Several connections (R177) -/

/-- A step of copy `k` that goes on sets that copy to what `step` makes of it. -/
theorem stepCopy_next {cs cs' : List State} {k : Nat} (hk : cs[k]? = some s) (h : stepCopy k cs = .next cs') :
    ∃ t, step s = .next t ∧ cs' = cs.set k t := by
  simp only [stepCopy, hk] at h
  cases ht : step s with
  | next t =>
    simp only [ht] at h
    cases h
    exact ⟨t, rfl, rfl⟩
  | fault r => simp [ht] at h
  | refused r => simp [ht] at h

/-- Settles O59: setting one copy of the list leaves the others. -/
theorem connectionsAreIndependent : Obligations.ConnectionsAreIndependent := by
  intro cs cs' k s hk h
  obtain ⟨t, ht, rfl⟩ := stepCopy_next hk h
  obtain ⟨hlt, _⟩ := List.getElem?_eq_some_iff.1 hk
  exact ⟨⟨t, ht, List.getElem?_set_self hlt⟩, List.length_set, fun j hj => List.getElem?_set_ne hj.symm⟩

end Sys2Proof.Machine
end

section
/-! PROOFS. The statements of 70_reset_and_hazards.md: what `Reset` does and what no other event does (R190), and the events
before the first `Reset` (R193). -/

namespace Sys2Proof.Machine

variable {s t : State}

/-! ## `Reset` and the other events (R190) -/

/-- No event but `Reset` touches both halves. -/
theorem step_leaves_a_half (h : step s = .next t) (hreset : s.schedule.head? ≠ some .reset) : SameRx s t ∨ SameTx s t := by
  rcases step_halves h hreset with ⟨hsame, _⟩ | ⟨hsame, _⟩ | rfl
  · exact .inr hsame
  · exact .inl hsame
  · exact .inl ⟨rfl, rfl, rfl, rfl, rfl, rfl, rfl, rfl⟩

/-- Settles O14: under the invariants a recorded error means `RX_ERR` or `TX_ERR`, where no other event clears it. -/
theorem resetIsTheOnlyWayBack : Obligations.ResetIsTheOnlyWayBack := by
  refine ⟨fun s hs => ?_, fun s t hi hreset h => ⟨fun herr => ?_, fun herr => ?_, step_leaves_a_half h hreset⟩⟩
  · obtain ⟨evs, hs⟩ := List.head?_eq_some_iff.1 hs
    exact step_reset hs
  · obtain ⟨hrx, _⟩ := hi
    have hst : s.rxState = .err := not_not.1 fun hst => herr (hrx.err.2 hst)
    obtain ⟨_, _, herr', hinfo'⟩ := step_of_err hst h hreset
    exact ⟨herr', hinfo'⟩
  · obtain ⟨_, htx⟩ := hi
    have hst : s.txState = .err := not_not.1 fun hst => herr (htx.err.2 hst)
    obtain ⟨_, _, herr', _⟩ := (failedEncoderDiscards s hst).2 t hreset h
    exact herr'

/-! ## Before the first `Reset` (R193) -/

theorem afterReset_refused (e : Host.Outcome State Fault Refusal) (h : s.resetDone = false) :
    afterReset s e = .refused .beforeReset := by
  simp [afterReset, h]

/-- Settles O15: each event of the two agents goes through `afterReset`, which refuses it. -/
theorem noRuleBeforeTheFirstReset : Obligations.NoRuleBeforeTheFirstReset := by
  intro s ev hr hs hne
  obtain ⟨evs, hs⟩ := List.head?_eq_some_iff.1 hs
  rw [step_of_schedule hs]
  cases ev with
  | reset => exact absurd rfl hne
  | rxByte | frameTake | txFrame | txByte => exact afterReset_refused _ hr

end Sys2Proof.Machine
end

section
/-! PROOFS. The words of 95_test_vectors.md: what `decodeApdu` makes of them follows from the encodings it accepts (R87) and from
the opcode map (R83). -/

namespace Sys2Proof.Machine

/-- A whole APDU of control octets alone that match no row of the opcode map is refused with its `CF1` (R86). -/
theorem decodeApdu_of_no_row {cf1 cf2 cf3 cf4 : Octet}
    (hno : ∀ r ∈ opcodeTable, r.matchesWord (controlWord cf1 cf2 cf3 cf4) = false) :
    decodeApdu [0x68#8, 0x04#8, cf1, cf2, cf3, cf4] = .error .invalidControlField cf1 :=
  (errorsAreExactlyTheListed _ _ _).2 <| .inr <| .inr <| .inr
    ⟨0x04#8, cf1, cf2, cf3, cf4, [], [], rfl, rfl, by decide, .inl ⟨rfl, rfl, hno⟩⟩

/-- Settles O9: four of the words are the encodings of their frames, which are accepted (O2); two match no row of the opcode
map, V-E7 because its `CF1` selects no function and V-E15 because bit 0 of its `CF3` is set. -/
theorem specWordsDecode : Obligations.SpecWordsDecode := by
  obtain ⟨accepted_iff, _⟩ := acceptedStringsAreTheEncodings
  refine ⟨?vI3, ?vS3, ?vU1, ?vU6, ?vE7, ?vE15⟩
  case vI3 | vS3 | vU1 | vU6 => exact (accepted_iff _ _).2 ⟨by decide, by decide⟩
  case vE7 | vE15 => exact decodeApdu_of_no_row (by decide)

end Sys2Proof.Machine
end
